-- ==== Sys2Proof/Word.lean ====
section
/-! DEFINITION. The words of the block and of its bus (00_scope R8, 20_memory R60, 30_encoding R81). -/

namespace Sys2Proof

/-- `Bits 1`: one bit of a register (R8). -/
abbrev Bit := BitVec 1

/-- A 32-bit register value or bus data word (`BW`, R7, R23). -/
abbrev Word := BitVec 32

/-- A 40-bit transaction word (R81). -/
abbrev TWord := BitVec 40

/-- A 32-bit bus address (R60). -/
abbrev Addr := BitVec 32

end Sys2Proof
end

