-- ==== Sys2Proof/Syntax.lean ====
section
/-! DEFINITION. The operations of the block: the 28 rows of spec/opcode_table.json (30_encoding R86), and the
names they are built from. -/

namespace Sys2Proof

/-- The instance an operation or a tick acts on (00_scope R2). -/
inductive Ch where
  | ch0
  | ch1
  deriving DecidableEq, Repr, Inhabited

/-- The two encoder phases, and so the two phase pins, of an instance (00_scope R1). -/
inductive Phase where
  | a
  | b
  deriving DecidableEq, Repr, Inhabited

/-- The fourteen registers of an instance (30_encoding R82). -/
inductive Reg where
  | sc | cnt | mod | c0sc | c0v | c1sc | c1v | cntin | mode | fms | filter | qdctrl | pcrA | pcrB
  deriving DecidableEq, Repr

/-- The direction of a bus operation: field W of a transaction word (30_encoding R81). -/
inductive Access where
  | read
  | write
  deriving DecidableEq, Repr

/-- The operations. `R.<REG>` has the operand `ch`; `W.<REG>` has `ch` and the data word `d` (30_encoding R86).
A read has no data operand: a read word with nonzero DATA is no operation (R84). -/
inductive Instr where
  | rPcrA (ch : Ch)
  | wPcrA (ch : Ch) (d : Word)
  | rPcrB (ch : Ch)
  | wPcrB (ch : Ch) (d : Word)
  | rMode (ch : Ch)
  | wMode (ch : Ch) (d : Word)
  | rFms (ch : Ch)
  | wFms (ch : Ch) (d : Word)
  | rSc (ch : Ch)
  | wSc (ch : Ch) (d : Word)
  | rMod (ch : Ch)
  | wMod (ch : Ch) (d : Word)
  | rCntin (ch : Ch)
  | wCntin (ch : Ch) (d : Word)
  | rC0sc (ch : Ch)
  | wC0sc (ch : Ch) (d : Word)
  | rC0v (ch : Ch)
  | wC0v (ch : Ch) (d : Word)
  | rC1sc (ch : Ch)
  | wC1sc (ch : Ch) (d : Word)
  | rC1v (ch : Ch)
  | wC1v (ch : Ch) (d : Word)
  | rFilter (ch : Ch)
  | wFilter (ch : Ch) (d : Word)
  | rQdctrl (ch : Ch)
  | wQdctrl (ch : Ch) (d : Word)
  | rCnt (ch : Ch)
  | wCnt (ch : Ch) (d : Word)
  deriving DecidableEq, Repr

/-- The four fields of a transaction word (30_encoding R81), before they are read as an operation. -/
structure Fields where
  /-- bit 39: 1 is a write -/
  w : Bit
  /-- bit 38: the instance -/
  ch : Bit
  /-- bits 37 to 32: the register selector -/
  sel : BitVec 6
  /-- bits 31 to 0 -/
  data : Word
  deriving DecidableEq, Repr

end Sys2Proof
end

