-- ==== Sys2Proof/WellFormed.lean ====
section
/-! DEFINITION. Which transactions are operations and which are reserved (30_encoding R84). Every term of `Instr` is
an operation: its operands have exactly the widths of R81, so the checks stand here, on a word's fields. -/

namespace Sys2Proof

/-- The assigned selectors, in the order of R82's table. -/
def assignedSelectors : List (BitVec 6) :=
  [0x00#6, 0x01#6, 0x02#6, 0x03#6, 0x04#6, 0x05#6, 0x06#6] ++
  [0x13#6, 0x15#6, 0x1D#6, 0x1E#6, 0x20#6, 0x3E#6, 0x3F#6]

/-- The selector names a register (R84, first item). -/
def Fields.selAssigned (f : Fields) : Bool := assignedSelectors.contains f.sel

/-- A read carries no data (R81, R84 second item). -/
def Fields.readDataZero (f : Fields) : Bool := f.w == 1#1 || f.data == 0#32

/-- The fields are one of the 28 operations of R86. -/
def Fields.wellFormed (f : Fields) : Bool := f.selAssigned && f.readDataZero

end Sys2Proof
end

