-- ==== Sys2Proof/Decode.lean ====
section
/-! DEFINITION. The decoder and the encoder of transaction words (30_encoding R81 to R86). The decoder is total: every
40-bit word is one of the 28 operations or is rejected by name (R84). -/

namespace Sys2Proof

/-- Why a word is reserved (30_encoding R84). -/
inductive DecodeError where
  /-- SEL is in no row of R82 -/
  | reservedSelector (sel : BitVec 6)
  /-- a read word with DATA ≠ 0 -/
  | readWithData (data : Word)
  /-- fewer than five bytes: no transaction word (R81: "no other length") -/
  | tooShort
  deriving DecidableEq, Repr

/-- The fourteen registers, in R82's order. -/
def Reg.all : List Reg :=
  [.sc, .cnt, .mod, .c0sc, .c0v, .c1sc, .c1v] ++ [.cntin, .mode, .fms, .filter, .qdctrl, .pcrA, .pcrB]

/-- R82: the selector of each register. -/
def Reg.sel : Reg → BitVec 6
  | .sc => 0x00#6
  | .cnt => 0x01#6
  | .mod => 0x02#6
  | .c0sc => 0x03#6
  | .c0v => 0x04#6
  | .c1sc => 0x05#6
  | .c1v => 0x06#6
  | .cntin => 0x13#6
  | .mode => 0x15#6
  | .fms => 0x1D#6
  | .filter => 0x1E#6
  | .qdctrl => 0x20#6
  | .pcrA => 0x3E#6
  | .pcrB => 0x3F#6

/-- The register a selector names, if it is assigned (R82, R84). -/
def Reg.ofSel (sel : BitVec 6) : Option Reg := Reg.all.find? (fun r => r.sel == sel)

/-- R81: CH = 0 is channel 0, CH = 1 is channel 1. -/
def Ch.ofBit (b : Bit) : Ch := if b = 1#1 then .ch1 else .ch0

/-- R81: the CH field of an instance. -/
def Ch.bit : Ch → Bit
  | .ch0 => 0#1
  | .ch1 => 1#1

/-- R81: the four fields of a transaction word. -/
def fieldsOfWord (t : TWord) : Fields where
  w := t.extractLsb' 39 1
  ch := t.extractLsb' 38 1
  sel := t.extractLsb' 32 6
  data := t.extractLsb' 0 32

/-- R81: W in bit 39, CH in bit 38, SEL in bits 37:32, DATA in bits 31:0. -/
def wordOfFields (f : Fields) : TWord := f.w ++ f.ch ++ f.sel ++ f.data

/-- R86: the read operation of a register. -/
def readInstr : Reg → Ch → Instr
  | .sc => .rSc
  | .cnt => .rCnt
  | .mod => .rMod
  | .c0sc => .rC0sc
  | .c0v => .rC0v
  | .c1sc => .rC1sc
  | .c1v => .rC1v
  | .cntin => .rCntin
  | .mode => .rMode
  | .fms => .rFms
  | .filter => .rFilter
  | .qdctrl => .rQdctrl
  | .pcrA => .rPcrA
  | .pcrB => .rPcrB

/-- R86: the write operation of a register. -/
def writeInstr : Reg → Ch → Word → Instr
  | .sc => .wSc
  | .cnt => .wCnt
  | .mod => .wMod
  | .c0sc => .wC0sc
  | .c0v => .wC0v
  | .c1sc => .wC1sc
  | .c1v => .wC1v
  | .cntin => .wCntin
  | .mode => .wMode
  | .fms => .wFms
  | .filter => .wFilter
  | .qdctrl => .wQdctrl
  | .pcrA => .wPcrA
  | .pcrB => .wPcrB

/-- The operation that a word's fields name, or why they are reserved (R84, R86). -/
def decodeFields (f : Fields) : Except DecodeError Instr :=
  match Reg.ofSel f.sel with
  | none => .error (.reservedSelector f.sel)
  | some r =>
    if f.w = 1#1 then .ok (writeInstr r (Ch.ofBit f.ch) f.data)
    else if f.data = 0#32 then .ok (readInstr r (Ch.ofBit f.ch))
    else .error (.readWithData f.data)

/-- The decoder: total on the 2^40 transaction words (R84). -/
def decode (t : TWord) : Except DecodeError Instr := decodeFields (fieldsOfWord t)

/-- The decoder on bytes. R81: "the first byte is W ‖ CH ‖ SEL, and the remaining eight digits are DATA"; the first
byte is the word's most significant one (DEDUCED, log 12). It answers the operation and the bytes after it. -/
def decodeBytes : List (BitVec 8) → Except DecodeError (Instr × List (BitVec 8))
  | b0 :: b1 :: b2 :: b3 :: b4 :: rest =>
    match decode (b0 ++ b1 ++ b2 ++ b3 ++ b4) with
    | .ok i => .ok (i, rest)
    | .error e => .error e
  | _ => .error .tooShort

/-- The fields of a read of `r` on `ch` (R81, R86). -/
def readFields (r : Reg) (ch : Ch) : Fields := ⟨0#1, ch.bit, r.sel, 0#32⟩

/-- The fields of a write of `d` to `r` on `ch` (R81, R86). -/
def writeFields (r : Reg) (ch : Ch) (d : Word) : Fields := ⟨1#1, ch.bit, r.sel, d⟩

/-- The fields of each operation: the encodings of rules R101 to R104, R125 to R128, R142 to R159, R211 and R212. -/
def Instr.fields : Instr → Fields
  | .rPcrA ch => readFields .pcrA ch
  | .wPcrA ch d => writeFields .pcrA ch d
  | .rPcrB ch => readFields .pcrB ch
  | .wPcrB ch d => writeFields .pcrB ch d
  | .rMode ch => readFields .mode ch
  | .wMode ch d => writeFields .mode ch d
  | .rFms ch => readFields .fms ch
  | .wFms ch d => writeFields .fms ch d
  | .rSc ch => readFields .sc ch
  | .wSc ch d => writeFields .sc ch d
  | .rMod ch => readFields .mod ch
  | .wMod ch d => writeFields .mod ch d
  | .rCntin ch => readFields .cntin ch
  | .wCntin ch d => writeFields .cntin ch d
  | .rC0sc ch => readFields .c0sc ch
  | .wC0sc ch d => writeFields .c0sc ch d
  | .rC0v ch => readFields .c0v ch
  | .wC0v ch d => writeFields .c0v ch d
  | .rC1sc ch => readFields .c1sc ch
  | .wC1sc ch d => writeFields .c1sc ch d
  | .rC1v ch => readFields .c1v ch
  | .wC1v ch d => writeFields .c1v ch d
  | .rFilter ch => readFields .filter ch
  | .wFilter ch d => writeFields .filter ch d
  | .rQdctrl ch => readFields .qdctrl ch
  | .wQdctrl ch d => writeFields .qdctrl ch d
  | .rCnt ch => readFields .cnt ch
  | .wCnt ch d => writeFields .cnt ch d

/-- The instance an operation acts on. -/
def Instr.channel (i : Instr) : Ch := Ch.ofBit i.fields.ch

/-- The encoder (R81, R82). -/
def encode (i : Instr) : TWord := wordOfFields i.fields

/-- A transaction word as five bytes, first byte first (log 12). -/
def encodeBytes (i : Instr) : List (BitVec 8) :=
  let t := encode i
  [t.extractLsb' 32 8, t.extractLsb' 24 8, t.extractLsb' 16 8, t.extractLsb' 8 8, t.extractLsb' 0 8]

/-- The mask of an operation's row of spec/opcode_table.json: CH is left out, and for a write DATA too (R86). -/
def Instr.mask (i : Instr) : TWord := if i.fields.w = 1#1 then 0xBF00000000#40 else 0xBFFFFFFFFF#40

/-- The match of an operation's row of spec/opcode_table.json. -/
def Instr.matchBits : Instr → TWord
  | .rPcrA _ => 0x3E00000000#40
  | .wPcrA _ _ => 0xBE00000000#40
  | .rPcrB _ => 0x3F00000000#40
  | .wPcrB _ _ => 0xBF00000000#40
  | .rMode _ => 0x1500000000#40
  | .wMode _ _ => 0x9500000000#40
  | .rFms _ => 0x1D00000000#40
  | .wFms _ _ => 0x9D00000000#40
  | .rSc _ => 0x0000000000#40
  | .wSc _ _ => 0x8000000000#40
  | .rMod _ => 0x0200000000#40
  | .wMod _ _ => 0x8200000000#40
  | .rCntin _ => 0x1300000000#40
  | .wCntin _ _ => 0x9300000000#40
  | .rC0sc _ => 0x0300000000#40
  | .wC0sc _ _ => 0x8300000000#40
  | .rC0v _ => 0x0400000000#40
  | .wC0v _ _ => 0x8400000000#40
  | .rC1sc _ => 0x0500000000#40
  | .wC1sc _ _ => 0x8500000000#40
  | .rC1v _ => 0x0600000000#40
  | .wC1v _ _ => 0x8600000000#40
  | .rFilter _ => 0x1E00000000#40
  | .wFilter _ _ => 0x9E00000000#40
  | .rQdctrl _ => 0x2000000000#40
  | .wQdctrl _ _ => 0xA000000000#40
  | .rCnt _ => 0x0100000000#40
  | .wCnt _ _ => 0x8100000000#40

/-- The transaction word whose bits are `w`, numbered as spec/opcode_table.json numbers them: the table gives every
row one 40-bit number, so bit 0 is bit 0 of DATA. Bits at `nbits` and above are 0. -/
def tableWord (nbits w : Nat) : TWord := BitVec.ofNat 40 (w % 2 ^ nbits)

/-- The operation the decoder reads from a word of the opcode table. -/
def decodeTableWord (nbits w : Nat) : Option Instr :=
  match decode (tableWord nbits w) with
  | .ok i => some i
  | .error _ => none

end Sys2Proof
end

