-- ==== Sys2Proof/Config.lean ====
section
/-! DEFINITION. What a machine is built with: the parameters of 00_scope R7, and the free values (the spec's draws,
00_scope R10). A constant without a body is open: a statement holds for every value of it. -/

namespace Sys2Proof

/-- What a write to CNT loads (44_counter_access R213). -/
inductive CntWriteMode where
  | direct
  | loadCntin
  deriving DecidableEq, Repr

/-- The parameters of 00_scope R7 that the rules of the block read. -/
structure Params where
  /-- `ALT_QD(ch, p)`: the pin multiplexer value that routes the pin to the decoder -/
  altQd : Ch → Phase → BitVec 3
  /-- `FVAL_INIT`: the filter value the initialization writes for each phase -/
  fvalInit : BitVec 4
  /-- `FILTER_SCALE`: ticks per unit of filter value -/
  filterScale : Nat
  /-- `FILTER_SLACK`: width of the band above the threshold in which acceptance is open -/
  filterSlack : Nat
  /-- `POL_A_INIT` -/
  polAInit : Bit
  /-- `POL_B_INIT` -/
  polBInit : Bit
  /-- `CNT_WRITE_MODE` -/
  cntWriteMode : CntWriteMode

/-- The bus addresses of 00_scope R7: `BASE_T(ch)` and `PCR_ADDR(ch, p)`. -/
structure BusMap where
  baseT : Ch → Addr
  pcrAddr : Ch → Phase → Addr

/-- OPEN (R7, D4): `ALT_QD(ch, p)` less one; ALT_QD is 1 to 7. -/
opaque Config.altQdIndex : Ch → Phase → Fin 7

/-- OPEN (R7, D18): `FVAL_INIT` less one; FVAL_INIT is 1 to 15. -/
opaque Config.fvalIndex : Fin 15

/-- OPEN (R7, D18): `FILTER_SCALE` less one; FILTER_SCALE is a positive integer. -/
opaque Config.filterScaleLessOne : Nat

/-- OPEN (R7, D17): `FILTER_SLACK`, an integer at least 0. -/
opaque Config.filterSlack : Nat

/-- OPEN (R7, D4): `BASE_T(ch)`. -/
opaque Config.baseT : Ch → Addr

/-- OPEN (R7, D4): `PCR_ADDR(ch, p)`. -/
opaque Config.pcrAddr : Ch → Phase → Addr

/-- A FREE VALUE (the spec's `draw Bits w`, 00_scope R10, 10_state R23): the `n`-th draw of instance `ch`. No body:
nothing can evaluate it (log 3). -/
opaque Config.freeValue (w : Nat) (ch : Ch) (n : Nat) : BitVec w

/-- The parameters of this machine: the OPEN ones above, and the values 00_scope R7 decides (polarity 0, 0 and
`CNT_WRITE_MODE = Direct`; log 11). -/
def Config.params : Params where
  altQd ch p := BitVec.ofNat 3 ((Config.altQdIndex ch p).val + 1)
  fvalInit := BitVec.ofNat 4 (Config.fvalIndex.val + 1)
  filterScale := Config.filterScaleLessOne + 1
  filterSlack := Config.filterSlack
  polAInit := 0#1
  polBInit := 0#1
  cntWriteMode := .direct

/-- The bus addresses of this machine. -/
def Config.busMap : BusMap where
  baseT := Config.baseT
  pcrAddr := Config.pcrAddr

/-- The reference and assumed values of the test vectors (95_test_vectors, opening list). Used by tests only. -/
def Params.reference : Params where
  altQd ch _ := match ch with
    | .ch0 => 7#3
    | .ch1 => 6#3
  fvalInit := 2#4
  filterScale := 4
  filterSlack := 0
  polAInit := 0#1
  polBInit := 0#1
  cntWriteMode := .direct

/-- The reference addresses of 20_memory R62. Used by tests only. -/
def BusMap.reference : BusMap where
  baseT ch := match ch with
    | .ch0 => 0x40039000#32
    | .ch1 => 0x400B8000#32
  pcrAddr ch p := match ch, p with
    | .ch0, .a => 0x40049030#32
    | .ch0, .b => 0x40049034#32
    | .ch1, .a => 0x4004A048#32
    | .ch1, .b => 0x4004A04C#32

end Sys2Proof
end

