-- ==== Sys2Proof/Machine/State.lean ====
section
/-! DEFINITION. The state of the block and of a run (10_state), as plain data, and the state after reset (R42). A field
of class RD or RES has no storage (R23, R37), so no record below has one. -/

namespace Sys2Proof.Machine

/-- SC, the status and control register (R24). TOF is class RD. -/
structure Sc where
  toie : Bit
  cpwms : Bit
  clks : BitVec 2
  ps : BitVec 3
  deriving DecidableEq, Repr

/-- CnSC, a channel status and control register (R27). CHF is class RD. -/
structure Cnsc where
  chie : Bit
  msb : Bit
  msa : Bit
  elsb : Bit
  elsa : Bit
  dma : Bit
  deriving DecidableEq, Repr

/-- MODE, the features mode selection register (R30). WPDIS is the inverse view of `Channel.wpen`; INIT is class RD. -/
structure Mode where
  faultie : Bit
  faultm : BitVec 2
  captest : Bit
  pwmsync : Bit
  ftmen : Bit
  deriving DecidableEq, Repr

/-- FILTER, the input filter control register (R32): phase A is CH0FVAL, phase B is CH1FVAL. -/
structure Filter where
  ch1fval : BitVec 4
  ch0fval : BitVec 4
  deriving DecidableEq, Repr

/-- QDCTRL, the quadrature decoder control register (R33). QUADIR and TOFDIR are class RD. -/
structure Qdctrl where
  phafltren : Bit
  phbfltren : Bit
  phapol : Bit
  phbpol : Bit
  quadmode : Bit
  quaden : Bit
  deriving DecidableEq, Repr

/-- PCR, the pin-control register of one phase pin (R34). ISF is class RD. -/
structure Pcr where
  irqc : BitVec 4
  lk : Bit
  mux : BitVec 3
  dse : Bit
  ode : Bit
  pfe : Bit
  sre : Bit
  pe : Bit
  ps : Bit
  deriving DecidableEq, Repr

/-- One instance of the block (R20). -/
structure Channel where
  /-- SC (R24) -/
  sc : Sc
  /-- CNT.COUNT, the live counter (R25) -/
  cnt : BitVec 16
  /-- MOD.MOD, the maximum value (R26) -/
  mod : BitVec 16
  /-- C0SC (R27) -/
  c0sc : Cnsc
  /-- C0V.VAL (R28) -/
  c0v : BitVec 16
  /-- C1SC (R27) -/
  c1sc : Cnsc
  /-- C1V.VAL (R28) -/
  c1v : BitVec 16
  /-- CNTIN.INIT, the reload value (R29) -/
  cntin : BitVec 16
  /-- MODE (R30) -/
  mode : Mode
  /-- WPEN, the write-protect latch (R31): FMS.WPEN, and inverted MODE.WPDIS -/
  wpen : Bit
  /-- FILTER (R32) -/
  filter : Filter
  /-- QDCTRL (R33) -/
  qdctrl : Qdctrl
  /-- PCR_A (R34) -/
  pcrA : Pcr
  /-- PCR_B (R34) -/
  pcrB : Pcr
  /-- H.fout_A, the filtered level of phase A (R35) -/
  foutA : Bit
  /-- H.fout_B (R35) -/
  foutB : Bit
  /-- H.fcnt_A, ticks on which the input has differed from fout_A (R35) -/
  fcntA : Nat
  /-- H.fcnt_B (R35) -/
  fcntB : Nat
  /-- H.latch, the pair `a ‖ b` of the previous tick; `none` until the first tick after reset (R36) -/
  latch : Option (BitVec 2)
  /-- The model's own field: how many free values this instance has taken (log 3). Each instance counts its own, so
  that the instances share no state (R20). -/
  draws : Nat
  deriving DecidableEq, Repr

/-- The reasons of `refuse` (R39, 60_exceptions R253). A refusal is a mark on the state and not a stop. -/
inductive RefuseReason where
  /-- an admitted write that sets SC.TOIE, CnSC.CHIE or MODE.FAULTIE -/
  | interruptOutOfScope
  /-- a PCR write with IRQC ≠ 0 or LK = 1 -/
  | pinFeatureOutOfScope
  /-- an unassigned SEL, a read with DATA ≠ 0, an access outside the map or not 32-bit aligned -/
  | reservedEncoding
  /-- a launch state that breaks LaunchPremise (R41) -/
  | launchOutOfScope
  deriving DecidableEq, Repr

/-- The events of the history (R39). -/
inductive Event where
  /-- a bus operation; the data of a read is 0 (R101, R141) -/
  | busOp (ch : Ch) (dir : Access) (reg : Reg) (data : Word)
  /-- a write to a protected register while WPEN = 1, other than the unlock write -/
  | lockedWrite (ch : Ch) (reg : Reg)
  deriving DecidableEq, Repr

/-- What the environment drives a phase pin to at a tick (R40). -/
inductive Level where
  | low
  | high
  /-- not driven -/
  | z
  deriving DecidableEq, Repr

/-- One entry of a run's script: which agent moves next (20_memory R68, 30_encoding R80, R88; log 1). -/
inductive Move where
  /-- the host issues its next operation -/
  | host
  /-- a tick of instance `ch` with `env(ch, A) = a` and `env(ch, B) = b` -/
  | tick (ch : Ch) (a b : Level)
  deriving DecidableEq, Repr

/-- The state of the block (two instances), of its host, and of the run. -/
structure State where
  /-- instance 0 -/
  ch0 : Channel
  /-- instance 1 -/
  ch1 : Channel
  /-- the host program index (R22) -/
  pc : Nat
  /-- the reasons refused so far, oldest first; `refused` of R39 is that there is one (log 5) -/
  refusals : List RefuseReason
  /-- the history (R39), oldest first -/
  hist : List Event
  /-- the words that reads have returned to the host, oldest first: the model's own field (log 4) -/
  results : List Word
  /-- the host program, an input of the run (30_encoding R80; log 2) -/
  program : List TWord
  /-- the moves still to come, an input of the run (log 1) -/
  script : List Move
  deriving DecidableEq, Repr

/-- `refused` of R39. -/
def State.refused (s : State) : Bool := !s.refusals.isEmpty

/-- Why a step stops. The block itself never faults (60_exceptions R250). -/
inductive Fault where
  /-- The run has ended (70_reset_and_hazards R288): the host program is done and no scripted tick is left. Raised by
  `step` alone. Safe: the model stops where the real block goes on counting (log 6). -/
  | endOfRun
  deriving DecidableEq, Repr

/-- Why the model has no meaning for an instruction. -/
inductive Refusal where
  /-- The instruction has no meaning yet. Raised by an arm of `exec` and by nothing else; no arm of this model raises
  it. Safe. -/
  | notModelled (mnemonic : String)
  deriving DecidableEq, Repr

/-- SC after power-on (R42). -/
def Sc.reset : Sc := ⟨0#1, 0#1, 0#2, 0#3⟩

/-- C0SC and C1SC after power-on (R42). -/
def Cnsc.reset : Cnsc := ⟨0#1, 0#1, 0#1, 0#1, 0#1, 0#1⟩

/-- MODE after power-on (R42). -/
def Mode.reset : Mode := ⟨0#1, 0#2, 0#1, 0#1, 0#1⟩

/-- A pin-control register after power-on: MUX, IRQC and LK as R42 gives them. DSE, ODE, PFE, SRE, PE and PS are
"unspecified" there: 0 is a DESIGN CHOICE (unsafe; log 8). -/
def Pcr.reset : Pcr where
  irqc := 0#4
  lk := 0#1
  mux := 0#3
  dse := 0#1
  ode := 0#1
  pfe := 0#1
  sre := 0#1
  pe := 0#1
  ps := 0#1

/-- One instance after power-on (R42). `foutA` and `foutB` are "unspecified" there: 0 is a DESIGN CHOICE (unsafe;
log 7). `draws` is the model's own (log 3). -/
def Channel.reset : Channel where
  sc := Sc.reset
  cnt := 0x0000#16
  mod := 0x0000#16
  c0sc := Cnsc.reset
  c0v := 0x0000#16
  c1sc := Cnsc.reset
  c1v := 0x0000#16
  cntin := 0x0000#16
  mode := Mode.reset
  wpen := 0#1
  filter := ⟨0#4, 0#4⟩
  qdctrl := ⟨0#1, 0#1, 0#1, 0#1, 0#1, 0#1⟩
  pcrA := Pcr.reset
  pcrB := Pcr.reset
  foutA := 0#1
  foutB := 0#1
  fcntA := 0
  fcntB := 0
  latch := none
  draws := 0

/-- The machine right after reset (R42, 70_reset_and_hazards R270, R271): both instances at power-on, `pc` 0, nothing
refused, an empty history; no program and no script (log 1, log 2). -/
def State.reset : State where
  ch0 := Channel.reset
  ch1 := Channel.reset
  pc := 0
  refusals := []
  hist := []
  results := []
  program := []
  script := []

end Sys2Proof.Machine
end

