-- ==== Sys2Proof/Machine/Ops.lean ====
section
/-! DEFINITION. The named operations over the state that every meaning is built from. There is no memory (20_memory
R60) and no exception (60_exceptions R250, R257), so no memory operation and no exception entry: what takes their place
is the access to an instance's record, the refusal mark and the event history (10_state R39). -/

namespace Sys2Proof.Machine

/-- `R[ch]`, `H[ch]` and `WPEN[ch]`: the record of one instance (00_scope R9). -/
def State.chan (s : State) : Ch → Channel
  | .ch0 => s.ch0
  | .ch1 => s.ch1

/-- The state with one instance's record replaced. -/
def State.setChan (s : State) (ch : Ch) (c : Channel) : State :=
  match ch with
  | .ch0 => { s with ch0 := c }
  | .ch1 => { s with ch1 := c }

/-- The pin-control register of a phase (R34). -/
def Channel.pcr (c : Channel) : Phase → Pcr
  | .a => c.pcrA
  | .b => c.pcrB

/-- `H[ch].fout_p` (R35). -/
def Channel.fout (c : Channel) : Phase → Bit
  | .a => c.foutA
  | .b => c.foutB

/-- `H[ch].fcnt_p` (R35). -/
def Channel.fcnt (c : Channel) : Phase → Nat
  | .a => c.fcntA
  | .b => c.fcntB

/-- The record with `fout_p` and `fcnt_p` replaced (R35). -/
def Channel.setFilter (c : Channel) (p : Phase) (fout : Bit) (fcnt : Nat) : Channel :=
  match p with
  | .a => { c with foutA := fout, fcntA := fcnt }
  | .b => { c with foutB := fout, fcntB := fcnt }

/-- `record <Event>` (00_scope R10, 10_state R39). -/
def record (e : Event) (s : State) : State := { s with hist := s.hist ++ [e] }

/-- `refuse <Reason>` (00_scope R10, 10_state R39): the sticky mark; the operation goes on (60_exceptions R253). -/
def refuse (r : RefuseReason) (s : State) : State := { s with refusals := s.refusals ++ [r] }

/-- `refuse` where a condition holds. -/
def refuseIf (b : Bool) (r : RefuseReason) (s : State) : State := if b then refuse r s else s

/-- `pc <- pc + 1` (R22). -/
def advance (s : State) : State := { s with pc := s.pc + 1 }

/-- `return r`: the word goes to the host (70_reset_and_hazards R287; log 4). -/
def returnWord (r : Word) (s : State) : State := { s with results := s.results ++ [r] }

/-- The end of every read: `return r; record BusOp(ch, R, sel, 0); pc <- pc + 1`. -/
def finishRead (ch : Ch) (reg : Reg) (r : Word) (s : State) : State :=
  advance (record (.busOp ch .read reg 0#32) (returnWord r s))

/-- The end of every write: `record BusOp(ch, W, sel, d); pc <- pc + 1`. -/
def finishWrite (ch : Ch) (reg : Reg) (d : Word) (s : State) : State :=
  advance (record (.busOp ch .write reg d) s)

/-- A reserved word or access: `refuse ReservedEncoding`, "State is otherwise unchanged, and pc <- pc + 1" (30_encoding
R84). It is no bus operation, so no `BusOp` is recorded (DEDUCED, log 13). -/
def reservedAccess (s : State) : State := advance (refuse .reservedEncoding s)

/-- The record after `k` more free values (log 3). -/
def Channel.spend (c : Channel) (k : Nat) : Channel := { c with draws := c.draws + k }

end Sys2Proof.Machine
end

