-- ==== Sys2Proof/Machine/Operands.lean ====
section
/-! DEFINITION. The operand forms: how each register takes its fields from the data word of a write (30_encoding R83),
and how its fields make the word of a read (10_state R23 to R34). A field of class RD takes its value as an argument:
the read draws it. -/

namespace Sys2Proof.Machine

/-- `d[lo + n - 1 : lo]` (00_scope R8). -/
def field (d : Word) (lo n : Nat) : BitVec n := d.extractLsb' lo n

/-- `zext_32(v) << lo`. -/
def place (n : Nat) (v : BitVec n) (lo : Nat) : Word := v.setWidth 32 <<< lo

/-- A 16-bit field takes `trunc_16(d)` (R83). -/
def low16 (d : Word) : BitVec 16 := field d 0 16

/-- W.SC (R142). -/
def Sc.ofWord (d : Word) : Sc where
  toie := field d 6 1
  cpwms := field d 5 1
  clks := field d 3 2
  ps := field d 0 3

/-- R.SC (R143). -/
def Sc.toWord (x : Sc) (tof : Bit) : Word :=
  place 1 tof 7 ||| place 1 x.toie 6 ||| place 1 x.cpwms 5 ||| place 2 x.clks 3 ||| place 3 x.ps 0

/-- W.C0SC and W.C1SC (R148, R152). -/
def Cnsc.ofWord (d : Word) : Cnsc where
  chie := field d 6 1
  msb := field d 5 1
  msa := field d 4 1
  elsb := field d 3 1
  elsa := field d 2 1
  dma := field d 0 1

/-- R.C0SC and R.C1SC (R149, R153). -/
def Cnsc.toWord (x : Cnsc) (chf : Bit) : Word :=
  place 1 chf 7 ||| place 1 x.chie 6 ||| place 1 x.msb 5 ||| place 1 x.msa 4 ||| place 1 x.elsb 3 |||
    place 1 x.elsa 2 ||| place 1 x.dma 0

/-- W.MODE, the gated fields (R125). -/
def Mode.ofWord (d : Word) : Mode where
  faultie := field d 7 1
  faultm := field d 5 2
  captest := field d 4 1
  pwmsync := field d 3 1
  ftmen := field d 0 1

/-- R.MODE (R126): bit 2 is the inverse of the latch, bit 1 a draw. -/
def Mode.toWord (x : Mode) (wpen init : Bit) : Word :=
  place 1 x.faultie 7 ||| place 2 x.faultm 5 ||| place 1 x.captest 4 ||| place 1 x.pwmsync 3 |||
    place 1 (~~~wpen) 2 ||| place 1 init 1 ||| place 1 x.ftmen 0

/-- R.FMS (R128): bit 6 is the latch, the other bits draws. -/
def fmsWord (wpen faultf : Bit) (faults : BitVec 6) : Word :=
  place 1 faultf 7 ||| place 1 wpen 6 ||| place 6 faults 0

/-- W.FILTER (R156). -/
def Filter.ofWord (d : Word) : Filter where
  ch1fval := field d 4 4
  ch0fval := field d 0 4

/-- R.FILTER (R157). -/
def Filter.toWord (x : Filter) : Word := place 4 x.ch1fval 4 ||| place 4 x.ch0fval 0

/-- W.QDCTRL (R158). -/
def Qdctrl.ofWord (d : Word) : Qdctrl where
  phafltren := field d 7 1
  phbfltren := field d 6 1
  phapol := field d 5 1
  phbpol := field d 4 1
  quadmode := field d 3 1
  quaden := field d 0 1

/-- R.QDCTRL (R159). -/
def Qdctrl.toWord (x : Qdctrl) (quadir tofdir : Bit) : Word :=
  place 1 x.phafltren 7 ||| place 1 x.phbfltren 6 ||| place 1 x.phapol 5 ||| place 1 x.phbpol 4 |||
    place 1 x.quadmode 3 ||| place 1 quadir 2 ||| place 1 tofdir 1 ||| place 1 x.quaden 0

/-- W.PCR_A and W.PCR_B (R102, R104). -/
def Pcr.ofWord (d : Word) : Pcr where
  irqc := field d 16 4
  lk := field d 15 1
  mux := field d 8 3
  dse := field d 6 1
  ode := field d 5 1
  pfe := field d 4 1
  sre := field d 2 1
  pe := field d 1 1
  ps := field d 0 1

/-- R.PCR_A and R.PCR_B (R101, R103). -/
def Pcr.toWord (x : Pcr) (isf : Bit) : Word :=
  place 1 isf 24 ||| place 4 x.irqc 16 ||| place 1 x.lk 15 ||| place 3 x.mux 8 ||| place 1 x.dse 6 |||
    place 1 x.ode 5 ||| place 1 x.pfe 4 ||| place 1 x.sre 2 ||| place 1 x.pe 1 ||| place 1 x.ps 0

/-- R.MOD, R.CNTIN, R.C0V, R.C1V and R.CNT: `zext_32` of the 16-bit field (R145, R147, R151, R155, R211). -/
def zext16 (v : BitVec 16) : Word := v.setWidth 32

end Sys2Proof.Machine
end

