-- ==== Sys2Proof/Machine/CounterAccess.lean ====
section
/-! DEFINITION. 44_counter_access: R.CNT and W.CNT. Neither is gated (R123, R210). -/

namespace Sys2Proof.Machine

/-- R211. -/
def execRCnt (ch : Ch) (s : State) : Host.Outcome State Fault Refusal :=
  .next (finishRead ch .cnt (zext16 (s.chan ch).cnt) s)

/-- What a CNT write loads (R212, R213). -/
def cntLoad (m : CntWriteMode) (d : Word) (c : Channel) : BitVec 16 :=
  match m with
  | .direct => low16 d
  | .loadCntin => c.cntin

/-- R212 with the parameter `CNT_WRITE_MODE` as an argument. -/
def cntWrite (m : CntWriteMode) (ch : Ch) (d : Word) (s : State) : State :=
  finishWrite ch .cnt d (s.setChan ch { s.chan ch with cnt := cntLoad m d (s.chan ch) })

/-- R212. -/
def execWCnt (ch : Ch) (d : Word) (s : State) : Host.Outcome State Fault Refusal :=
  .next (cntWrite Config.params.cntWriteMode ch d s)

end Sys2Proof.Machine
end

