-- ==== Sys2Proof/Machine/Flags.lean ====
section
/-! DEFINITION. The draws. The block has no condition codes; its status flags are class RD, whose value no rule gives
(10_state R37): a read of one is a free value. The Bool draws of the gate and of the filter are free values too. -/

namespace Sys2Proof.Machine

/-- `draw Bits w`: the free value `k` places after those the instance has taken. It spends nothing by itself; the
operation that uses it calls `Channel.spend` (log 3). -/
def drawBits (w : Nat) (ch : Ch) (c : Channel) (k : Nat) : BitVec w := Config.freeValue w ch (c.draws + k)

/-- The read value of a one-bit status flag (R37): the `k`-th draw of this read. -/
def drawFlag (ch : Ch) (c : Channel) (k : Nat) : Bit := drawBits 1 ch c k

/-- `draw Bool` (41_write_protect R120, 43_quadrature_decode R184). -/
def drawBool (ch : Ch) (c : Channel) : Bool := drawBits 1 ch c 0 == 1#1

end Sys2Proof.Machine
end

