-- ==== Sys2Proof/Machine/PinControl.lean ====
section
/-! DEFINITION. 40_pin_control: R.PCR_A, W.PCR_A, R.PCR_B, W.PCR_B, and what the pins feed to the decoder (R105, R107).
PFE is stored and read by no rule (R106). -/

namespace Sys2Proof.Machine

/-- The write enables a pin interrupt or the pin lock (R102: `d[19:16] ≠ 0 or d[15] = 1`). -/
def pinFeature (d : Word) : Bool := field d 16 4 != 0#4 || field d 15 1 == 1#1

/-- R101. -/
def execRPcrA (ch : Ch) (s : State) : Host.Outcome State Fault Refusal :=
  let c := s.chan ch
  .next (finishRead ch .pcrA (c.pcrA.toWord (drawFlag ch c 0)) (s.setChan ch (c.spend 1)))

/-- R102: never gated (R100); a refused write still applies its fields (60_exceptions R256). -/
def execWPcrA (ch : Ch) (d : Word) (s : State) : Host.Outcome State Fault Refusal :=
  let s1 := refuseIf (pinFeature d) .pinFeatureOutOfScope s
  .next (finishWrite ch .pcrA d (s1.setChan ch { s1.chan ch with pcrA := Pcr.ofWord d }))

/-- R103. -/
def execRPcrB (ch : Ch) (s : State) : Host.Outcome State Fault Refusal :=
  let c := s.chan ch
  .next (finishRead ch .pcrB (c.pcrB.toWord (drawFlag ch c 0)) (s.setChan ch (c.spend 1)))

/-- R104. -/
def execWPcrB (ch : Ch) (d : Word) (s : State) : Host.Outcome State Fault Refusal :=
  let s1 := refuseIf (pinFeature d) .pinFeatureOutOfScope s
  .next (finishWrite ch .pcrB d (s1.setChan ch { s1.chan ch with pcrB := Pcr.ofWord d }))

/-- `PinLevel(ch, p)` (R105), with the record after the draw it may take. -/
def pinLevel (ch : Ch) (p : Phase) (l : Level) (c : Channel) : Bit × Channel :=
  match l with
  | .low => (0#1, c)
  | .high => (1#1, c)
  | .z => if (c.pcr p).pe = 1#1 then ((c.pcr p).ps, c) else (drawBits 1 ch c 0, c.spend 1)

/-- `DecIn(ch, p)` (R107): the pin's level where the pin is routed to the decoder, else a draw at every tick. -/
def decIn (prm : Params) (ch : Ch) (p : Phase) (l : Level) (c : Channel) : Bit × Channel :=
  if (c.pcr p).mux = prm.altQd ch p then pinLevel ch p l c else (drawBits 1 ch c 0, c.spend 1)

end Sys2Proof.Machine
end

