-- ==== Sys2Proof/Machine/WriteProtect.lean ====
section
/-! DEFINITION. 41_write_protect: the gate (R120 to R124), the gated store that 42_timer_config R140 makes of it, and
W.MODE, R.MODE, W.FMS, R.FMS. -/

namespace Sys2Proof.Machine

/-- The gate's answer (R120). -/
inductive GateAnswer where
  | admitted
  | blocked
  deriving DecidableEq, Repr

/-- `Gate(ch, sel)` (R120), on the instance's record before the write; with the record after the one draw that a write
takes while HalfOpen. -/
def gate (ch : Ch) (reg : Reg) (c : Channel) : GateAnswer × Channel :=
  if c.wpen = 1#1 then (.blocked, c)
  else if c.mode.ftmen = 1#1 then (.admitted, c)
  else if reg = .mode then (.admitted, c)
  else (if drawBool ch c then .admitted else .blocked, c.spend 1)

/-- The body of `GatedWrite(ch, sel, d)` (42_timer_config R140): `store` writes the register's RWP and RWP! fields;
`enables` says that an RWP! field of the data is not 0. -/
def gatedStore (ch : Ch) (reg : Reg) (enables : Bool) (store : Channel → Channel) (s : State) : State :=
  match gate ch reg (s.chan ch) with
  | (.admitted, c) => (refuseIf enables .interruptOutOfScope s).setChan ch (store c)
  | (.blocked, c) =>
    if c.wpen = 1#1 then record (.lockedWrite ch reg) (s.setChan ch c) else s.setChan ch c

/-- `GatedWrite(ch, sel, d)` (42_timer_config R140). -/
def gatedWrite (ch : Ch) (reg : Reg) (d : Word) (enables : Bool) (store : Channel → Channel) (s : State) : State :=
  finishWrite ch reg d (gatedStore ch reg enables store s)

/-- R125, the gated part: the MODE fields, or LockedWrite where the write is blocked and is not the unlock write. -/
def modeStore (ch : Ch) (d : Word) (s : State) : State :=
  match gate ch .mode (s.chan ch) with
  | (.admitted, c) =>
    (refuseIf (field d 7 1 == 1#1) .interruptOutOfScope s).setChan ch { c with mode := Mode.ofWord d }
  | (.blocked, _) => if field d 2 1 = 0#1 then record (.lockedWrite ch .mode) s else s

/-- R125, WPDIS: `d[2] = 1` clears the latch, never gated (R123). -/
def wpdisStore (ch : Ch) (d : Word) (s : State) : State :=
  if field d 2 1 = 1#1 then s.setChan ch { s.chan ch with wpen := 0#1 } else s

/-- R127, WPEN: `d[6] = 1` sets the latch, never gated (R123). -/
def wpenStore (ch : Ch) (d : Word) (s : State) : State :=
  if field d 6 1 = 1#1 then s.setChan ch { s.chan ch with wpen := 1#1 } else s

/-- R125. -/
def execWMode (ch : Ch) (d : Word) (s : State) : Host.Outcome State Fault Refusal :=
  .next (finishWrite ch .mode d (wpdisStore ch d (modeStore ch d s)))

/-- R126. -/
def execRMode (ch : Ch) (s : State) : Host.Outcome State Fault Refusal :=
  let c := s.chan ch
  .next (finishRead ch .mode (c.mode.toWord c.wpen (drawFlag ch c 0)) (s.setChan ch (c.spend 1)))

/-- R127. -/
def execWFms (ch : Ch) (d : Word) (s : State) : Host.Outcome State Fault Refusal :=
  .next (finishWrite ch .fms d (wpenStore ch d s))

/-- R128. -/
def execRFms (ch : Ch) (s : State) : Host.Outcome State Fault Refusal :=
  let c := s.chan ch
  .next (finishRead ch .fms (fmsWord c.wpen (drawFlag ch c 0) (drawBits 6 ch c 1)) (s.setChan ch (c.spend 2)))

end Sys2Proof.Machine
end

