-- ==== Sys2Proof/Machine/TimerConfig.lean ====
section
/-! DEFINITION. 42_timer_config: the reads and writes of SC, MOD, CNTIN, C0SC, C0V, C1SC, C1V, FILTER and QDCTRL. Every
write is `GatedWrite` (R140), every read `RegRead` (R141). -/

namespace Sys2Proof.Machine

/-- Bit 6 of the data, the interrupt enable of SC and CnSC (R24, R27: class RWP!). -/
def enableBit6 (d : Word) : Bool := field d 6 1 != 0#1

/-- R142. -/
def execWSc (ch : Ch) (d : Word) (s : State) : Host.Outcome State Fault Refusal :=
  .next (gatedWrite ch .sc d (enableBit6 d) (fun c => { c with sc := Sc.ofWord d }) s)

/-- R143. -/
def execRSc (ch : Ch) (s : State) : Host.Outcome State Fault Refusal :=
  let c := s.chan ch
  .next (finishRead ch .sc (c.sc.toWord (drawFlag ch c 0)) (s.setChan ch (c.spend 1)))

/-- R144. -/
def execWMod (ch : Ch) (d : Word) (s : State) : Host.Outcome State Fault Refusal :=
  .next (gatedWrite ch .mod d false (fun c => { c with mod := low16 d }) s)

/-- R145. -/
def execRMod (ch : Ch) (s : State) : Host.Outcome State Fault Refusal :=
  .next (finishRead ch .mod (zext16 (s.chan ch).mod) s)

/-- R146. -/
def execWCntin (ch : Ch) (d : Word) (s : State) : Host.Outcome State Fault Refusal :=
  .next (gatedWrite ch .cntin d false (fun c => { c with cntin := low16 d }) s)

/-- R147. -/
def execRCntin (ch : Ch) (s : State) : Host.Outcome State Fault Refusal :=
  .next (finishRead ch .cntin (zext16 (s.chan ch).cntin) s)

/-- R148. -/
def execWC0sc (ch : Ch) (d : Word) (s : State) : Host.Outcome State Fault Refusal :=
  .next (gatedWrite ch .c0sc d (enableBit6 d) (fun c => { c with c0sc := Cnsc.ofWord d }) s)

/-- R149. -/
def execRC0sc (ch : Ch) (s : State) : Host.Outcome State Fault Refusal :=
  let c := s.chan ch
  .next (finishRead ch .c0sc (c.c0sc.toWord (drawFlag ch c 0)) (s.setChan ch (c.spend 1)))

/-- R150. -/
def execWC0v (ch : Ch) (d : Word) (s : State) : Host.Outcome State Fault Refusal :=
  .next (gatedWrite ch .c0v d false (fun c => { c with c0v := low16 d }) s)

/-- R151. -/
def execRC0v (ch : Ch) (s : State) : Host.Outcome State Fault Refusal :=
  .next (finishRead ch .c0v (zext16 (s.chan ch).c0v) s)

/-- R152. -/
def execWC1sc (ch : Ch) (d : Word) (s : State) : Host.Outcome State Fault Refusal :=
  .next (gatedWrite ch .c1sc d (enableBit6 d) (fun c => { c with c1sc := Cnsc.ofWord d }) s)

/-- R153. -/
def execRC1sc (ch : Ch) (s : State) : Host.Outcome State Fault Refusal :=
  let c := s.chan ch
  .next (finishRead ch .c1sc (c.c1sc.toWord (drawFlag ch c 0)) (s.setChan ch (c.spend 1)))

/-- R154. -/
def execWC1v (ch : Ch) (d : Word) (s : State) : Host.Outcome State Fault Refusal :=
  .next (gatedWrite ch .c1v d false (fun c => { c with c1v := low16 d }) s)

/-- R155. -/
def execRC1v (ch : Ch) (s : State) : Host.Outcome State Fault Refusal :=
  .next (finishRead ch .c1v (zext16 (s.chan ch).c1v) s)

/-- R156. -/
def execWFilter (ch : Ch) (d : Word) (s : State) : Host.Outcome State Fault Refusal :=
  .next (gatedWrite ch .filter d false (fun c => { c with filter := Filter.ofWord d }) s)

/-- R157. -/
def execRFilter (ch : Ch) (s : State) : Host.Outcome State Fault Refusal :=
  .next (finishRead ch .filter (s.chan ch).filter.toWord s)

/-- R158: all six fields change in the one write. -/
def execWQdctrl (ch : Ch) (d : Word) (s : State) : Host.Outcome State Fault Refusal :=
  .next (gatedWrite ch .qdctrl d false (fun c => { c with qdctrl := Qdctrl.ofWord d }) s)

/-- R159. -/
def execRQdctrl (ch : Ch) (s : State) : Host.Outcome State Fault Refusal :=
  let c := s.chan ch
  .next (finishRead ch .qdctrl (c.qdctrl.toWord (drawFlag ch c 0) (drawFlag ch c 1)) (s.setChan ch (c.spend 2)))

end Sys2Proof.Machine
end

