-- ==== Sys2Proof/Machine/Dispatch.lean ====
section
/-! DEFINITION. One arm per operation of spec/opcode_table.json (30_encoding R86). -/

namespace Sys2Proof.Machine

def exec (i : Instr) (s : State) : Host.Outcome State Fault Refusal :=
  match i with
  | .rPcrA ch => Sys2Proof.Machine.execRPcrA ch s
  | .wPcrA ch d => Sys2Proof.Machine.execWPcrA ch d s
  | .rPcrB ch => Sys2Proof.Machine.execRPcrB ch s
  | .wPcrB ch d => Sys2Proof.Machine.execWPcrB ch d s
  | .rMode ch => Sys2Proof.Machine.execRMode ch s
  | .wMode ch d => Sys2Proof.Machine.execWMode ch d s
  | .rFms ch => Sys2Proof.Machine.execRFms ch s
  | .wFms ch d => Sys2Proof.Machine.execWFms ch d s
  | .rSc ch => Sys2Proof.Machine.execRSc ch s
  | .wSc ch d => Sys2Proof.Machine.execWSc ch d s
  | .rMod ch => Sys2Proof.Machine.execRMod ch s
  | .wMod ch d => Sys2Proof.Machine.execWMod ch d s
  | .rCntin ch => Sys2Proof.Machine.execRCntin ch s
  | .wCntin ch d => Sys2Proof.Machine.execWCntin ch d s
  | .rC0sc ch => Sys2Proof.Machine.execRC0sc ch s
  | .wC0sc ch d => Sys2Proof.Machine.execWC0sc ch d s
  | .rC0v ch => Sys2Proof.Machine.execRC0v ch s
  | .wC0v ch d => Sys2Proof.Machine.execWC0v ch d s
  | .rC1sc ch => Sys2Proof.Machine.execRC1sc ch s
  | .wC1sc ch d => Sys2Proof.Machine.execWC1sc ch d s
  | .rC1v ch => Sys2Proof.Machine.execRC1v ch s
  | .wC1v ch d => Sys2Proof.Machine.execWC1v ch d s
  | .rFilter ch => Sys2Proof.Machine.execRFilter ch s
  | .wFilter ch d => Sys2Proof.Machine.execWFilter ch d s
  | .rQdctrl ch => Sys2Proof.Machine.execRQdctrl ch s
  | .wQdctrl ch d => Sys2Proof.Machine.execWQdctrl ch d s
  | .rCnt ch => Sys2Proof.Machine.execRCnt ch s
  | .wCnt ch d => Sys2Proof.Machine.execWCnt ch d s

end Sys2Proof.Machine
end

