-- ==== Sys2Proof/Machine/Quadrature.lean ====
section
/-! DEFINITION. 43_quadrature_decode: the mode predicates, the pulse filter, the decoder, the counter update, and one
whole tick of an instance, in the order of R187. The parameters are an argument, so that every rule can be stated for
every value of them. -/

namespace Sys2Proof.Machine

/-- `Active(ch)` (R180). -/
def Channel.active (c : Channel) : Bool := c.qdctrl.quaden == 1#1 && c.mode.ftmen == 1#1

/-- `Exact(ch)` (R180). -/
def Channel.exact (c : Channel) : Bool :=
  c.qdctrl.quadmode == 0#1 && c.sc.cpwms == 0#1 && c.sc.clks == 0#2 && c.sc.ps == 0#3 && c.mode.faultm == 0#2 &&
    c.mode.captest == 0#1

/-- The filter value `F` of a phase (R184): CH0FVAL for A, CH1FVAL for B. -/
def Channel.filterValue (c : Channel) : Phase → BitVec 4
  | .a => c.filter.ch0fval
  | .b => c.filter.ch1fval

/-- The filter enable `EN` of a phase (R184). -/
def Channel.filterEnable (c : Channel) : Phase → Bit
  | .a => c.qdctrl.phafltren
  | .b => c.qdctrl.phbfltren

/-- The threshold `T = FILTER_SCALE × F`, in ticks (R184). -/
def threshold (prm : Params) (c : Channel) (p : Phase) : Nat := prm.filterScale * (c.filterValue p).toNat

/-- A new level that has been counted `n` times: accepted, or still counted (R184). In the band from T to
T + FILTER_SLACK the answer is a draw. -/
def filterCandidate (prm : Params) (ch : Ch) (p : Phase) (x : Bit) (n : Nat) (c : Channel) : Channel :=
  if threshold prm c p + prm.filterSlack ≤ n then c.setFilter p x 0
  else if threshold prm c p ≤ n then
    if drawBool ch c then (c.spend 1).setFilter p x 0 else (c.spend 1).setFilter p (c.fout p) n
  else c.setFilter p (c.fout p) n

/-- The pulse filter of one phase at one tick, on the sample `x` (R184). -/
def filterPhase (prm : Params) (ch : Ch) (p : Phase) (x : Bit) (c : Channel) : Channel :=
  if c.filterEnable p = 0#1 ∨ c.filterValue p = 0#4 then c.setFilter p x 0
  else if x = c.fout p then c.setFilter p (c.fout p) 0
  else filterCandidate prm ch p x (c.fcnt p + 1) c

/-- What a transition of the pair counts (R185). -/
inductive Delta where
  | zero
  | up
  | down
  | ill
  deriving DecidableEq, Repr

/-- R185's table: a row is `prev` (00, 01, 10, 11), a column is `next` (00, 01, 10, 11). -/
def qdTable : List (List Delta) :=
  [[.zero, .down, .up, .ill], [.up, .zero, .ill, .down], [.down, .ill, .zero, .up], [.ill, .up, .down, .zero]]

/-- `QD(prev, next)` (R185). -/
def qd (prev next : BitVec 2) : Delta := (qdTable.getD prev.toNat []).getD next.toNat .zero

/-- The polarity-corrected pair `a ‖ b` of the filtered levels (R185). -/
def Channel.pair (c : Channel) : BitVec 2 := (c.foutA ^^^ c.qdctrl.phapol) ++ (c.foutB ^^^ c.qdctrl.phbpol)

/-- The decoder's count of this tick (R185). -/
def Channel.delta (c : Channel) : Delta :=
  match c.latch with
  | none => .zero
  | some prev => qd prev c.pair

/-- The decoder's latch follows the pair at every tick (R185, R36). -/
def Channel.relatch (c : Channel) : Channel := { c with latch := some c.pair }

/-- CNT.COUNT becomes a draw (R181, R182, R186). -/
def drawCount (ch : Ch) (c : Channel) : Channel := { c.spend 1 with cnt := drawBits 16 ch c 0 }

/-- One up-count or down-count in the reload range (R186). -/
def reloadUp (c : Channel) : BitVec 16 := if c.cnt = c.mod then c.cntin else c.cnt + 1#16

/-- One down-count in the reload range (R186). -/
def reloadDown (c : Channel) : BitVec 16 := if c.cnt = c.cntin then c.mod else c.cnt - 1#16

/-- The counter is free running: CNTIN = 0 and MOD = 0xFFFF (R186). -/
def Channel.fullRange (c : Channel) : Bool := c.cntin == 0x0000#16 && c.mod == 0xFFFF#16

/-- The counter lies in `[CNTIN, MOD]` (R186). -/
def Channel.inRange (c : Channel) : Bool := decide (c.cntin ≤ c.cnt) && decide (c.cnt ≤ c.mod)

/-- `Count(ch, delta)` (R186). -/
def count (ch : Ch) (d : Delta) (c : Channel) : Channel :=
  match d with
  | .zero => c
  | .ill => drawCount ch c
  | .up =>
    if c.fullRange then { c with cnt := c.cnt + 1#16 }
    else if c.inRange then { c with cnt := reloadUp c }
    else drawCount ch c
  | .down =>
    if c.fullRange then { c with cnt := c.cnt - 1#16 }
    else if c.inRange then { c with cnt := reloadDown c }
    else drawCount ch c

/-- The counter's part of a tick (R181, R182, R187), for the count the decoder gives. -/
def countTick (ch : Ch) (d : Delta) (c : Channel) : Channel :=
  if c.active && c.exact then count ch d c
  else if c.active then drawCount ch c
  else if c.qdctrl.quaden == 0#1 && c.sc.clks == 0#2 then c
  else drawCount ch c

/-- The two samples and the two filters of a tick (R187, first two lines). -/
def filterTick (prm : Params) (ch : Ch) (la lb : Level) (c : Channel) : Channel :=
  let a := decIn prm ch .a la c
  let b := decIn prm ch .b lb a.2
  filterPhase prm ch .b b.1 (filterPhase prm ch .a a.1 b.2)

/-- `Tick(ch, envA, envB)` on the instance's record (R187). -/
def tickChannel (prm : Params) (ch : Ch) (la lb : Level) (c : Channel) : Channel :=
  let c1 := filterTick prm ch la lb c
  countTick ch c1.delta c1.relatch

/-- One tick of instance `ch` (R187): it records no event and leaves the host alone. -/
def tick (ch : Ch) (la lb : Level) (s : State) : State :=
  s.setChan ch (tickChannel Config.params ch la lb (s.chan ch))

end Sys2Proof.Machine
end

