-- ==== Sys2Proof/Machine/Agents.lean ====
section
/-! DEFINITION. The agents and whose turn it is (20_memory R67, R68; 30_encoding R80, R88; 70_reset_and_hazards R288). The
script says which agent moves; where it says nothing more, the host goes on with its program. -/

namespace Sys2Proof.Machine

/-- The word at the host's index (10_state R22). -/
def fetch (s : State) : Option TWord := s.program[s.pc]?

/-- The host issues one transaction word (30_encoding R80, R84). -/
def runWord (t : TWord) (s : State) : Host.Outcome State Fault Refusal :=
  match decode t with
  | .ok i => exec i s
  | .error _ => .next (reservedAccess s)

/-- A move of the script that is a tick. -/
def Move.isTick : Move → Bool
  | .host => false
  | .tick _ _ _ => true

/-- A turn of the host. A host that is done passes its turn while scripted ticks are left; where none is left the run
has ended (R288; log 6). -/
def hostTurn (s : State) : Host.Outcome State Fault Refusal :=
  match fetch s with
  | some t => runWord t s
  | none => if s.script.any Move.isTick then .next s else .fault .endOfRun

/-- The next move of the run: the script's first move, or a turn of the host where the script is empty (log 1). -/
def turn (s : State) : Host.Outcome State Fault Refusal :=
  match s.script with
  | .tick ch la lb :: rest => .next (tick ch la lb { s with script := rest })
  | .host :: rest => hostTurn { s with script := rest }
  | [] => hostTurn s

/-- The program with `t` at index `n`. Where the program is shorter it is filled up below `n`: the host never goes
back, so no word there is issued (R22). -/
def placeWord (p : List TWord) (n : Nat) (t : TWord) : List TWord :=
  p.take n ++ List.replicate (n - p.length) 0#40 ++ t :: p.drop (n + 1)

/-- The state whose next move is the host's, on the word `t`: the word stands at the host's index and the script begins
with a turn of the host. It stands for the loading of a program from outside (log 2). -/
def placeNext (t : TWord) (s : State) : State :=
  { s with program := placeWord s.program s.pc t, script := .host :: s.script }

end Sys2Proof.Machine
end

