-- ==== Sys2Proof/Machine/Bus.lean ====
section
/-! DEFINITION. The block on the host's bus (20_memory R60 to R63): the address of each register, and what an access at an
address does. A transaction word names a register by instance and selector, so `step` needs no address (R61). -/

namespace Sys2Proof.Machine

/-- `OFFSET(sel) = 4 × sel` (R61). -/
def regOffset (r : Reg) : Addr := 4#32 * r.sel.setWidth 32

/-- `ADDR(ch, sel)` (R61, R62). -/
def busAddr (m : BusMap) (ch : Ch) (r : Reg) : Addr :=
  match r with
  | .pcrA => m.pcrAddr ch .a
  | .pcrB => m.pcrAddr ch .b
  | _ => m.baseT ch + regOffset r

/-- Every register of both instances (R62). -/
def busRegs : List (Ch × Reg) := Reg.all.map (fun r => (.ch0, r)) ++ Reg.all.map (fun r => (.ch1, r))

/-- The register at a bus address, if there is one (R62; log 14). -/
def regAt (m : BusMap) (a : Addr) : Option (Ch × Reg) := busRegs.find? (fun x => busAddr m x.1 x.2 == a)

/-- An access of the host's bus: `MemRead(addr, n)` or `MemWrite(addr, n, v)` (00_scope R10). -/
structure BusAccess where
  addr : Addr
  /-- how many bytes -/
  bytes : Nat
  dir : Access
  /-- the data of a write -/
  data : Word
  deriving DecidableEq, Repr

/-- The operation an access is: a whole aligned 32-bit access at a register's address (R63). -/
def busInstr (m : BusMap) (x : BusAccess) : Option Instr :=
  if x.bytes = 4 ∧ x.addr.toNat % 4 = 0 then
    match regAt m x.addr, x.dir with
    | some (ch, r), .read => some (readInstr r ch)
    | some (ch, r), .write => some (writeInstr r ch x.data)
    | none, _ => none
  else none

/-- An access of the host's bus. Any other than those of R62 and R63 is refused `ReservedEncoding` (R63,
60_exceptions R252, R253; log 14). -/
def busStep (m : BusMap) (x : BusAccess) (s : State) : Host.Outcome State Fault Refusal :=
  match busInstr m x with
  | some i => exec i s
  | none => .next (reservedAccess s)

end Sys2Proof.Machine
end

