-- ==== Sys2Proof/Machine/Launch.lean ====
section
/-! DEFINITION. Launches (10_state R41, R42) and the power cycle (60_exceptions R263, 70_reset_and_hazards R270). A launch is
the start of a run and no step of one (log 15). -/

namespace Sys2Proof.Machine

/-- No interrupt enable, pin interrupt or pin lock of an instance is set (R41). -/
def Channel.enablesOff (c : Channel) : Bool :=
  c.sc.toie == 0#1 && c.c0sc.chie == 0#1 && c.c1sc.chie == 0#1 && c.mode.faultie == 0#1 &&
    c.pcrA.irqc == 0#4 && c.pcrA.lk == 0#1 && c.pcrB.irqc == 0#4 && c.pcrB.lk == 0#1

/-- `LaunchPremise(s)` (R41). `AnyLaunch(s)` is this and nothing more. R41 does not name the host's `pc`, which R22 starts
at 0: it is left free here, so a launch state may have another `pc` (DESIGN CHOICE, log 26). -/
def launchPremise (s : State) : Bool :=
  s.ch0.enablesOff && s.ch1.enablesOff && !s.refused && s.hist.isEmpty

/-- An instance at power-on, in every field to which R42 gives a value, each written out: DSE, ODE, PFE, SRE, PE and PS
of the pin-control registers, and the two filter outputs, may hold anything. -/
def Channel.powerOn (c : Channel) : Bool :=
  c.cnt == 0#16 && c.sc == ⟨0#1, 0#1, 0#2, 0#3⟩ && c.mod == 0#16 &&
    c.c0sc == ⟨0#1, 0#1, 0#1, 0#1, 0#1, 0#1⟩ && c.c1sc == ⟨0#1, 0#1, 0#1, 0#1, 0#1, 0#1⟩ &&
    c.c0v == 0#16 && c.c1v == 0#16 && c.cntin == 0#16 && c.mode == ⟨0#1, 0#2, 0#1, 0#1, 0#1⟩ && c.wpen == 0#1 &&
    c.filter == ⟨0#4, 0#4⟩ && c.qdctrl == ⟨0#1, 0#1, 0#1, 0#1, 0#1, 0#1⟩ &&
    c.pcrA.mux == 0#3 && c.pcrA.irqc == 0#4 && c.pcrA.lk == 0#1 &&
    c.pcrB.mux == 0#3 && c.pcrB.irqc == 0#4 && c.pcrB.lk == 0#1 &&
    c.fcntA == 0 && c.fcntB == 0 && c.latch == none

/-- `PowerOnLaunch(s)` (R41, R42). -/
def powerOnLaunch (s : State) : Bool :=
  s.ch0.powerOn && s.ch1.powerOn && s.pc == 0 && !s.refused && s.hist.isEmpty

/-- The launch of a run from the state `s`: "A launch state that breaks `LaunchPremise` has `refuse
LaunchOutOfScope`" (R41). -/
def launch (s : State) : State := if launchPremise s then s else refuse .launchOutOfScope s

/-- A power cycle: a new launch from the power-on state, both instances together (R263, R270), with the program and
the script of the new run (log 15). -/
def powerCycle (program : List TWord) (script : List Move) : State :=
  launch { State.reset with program := program, script := script }

end Sys2Proof.Machine
end

