-- ==== Sys2Proof/Machine/Pseudo.lean ====
section
/-! DEFINITION. The pseudo-instructions and script directives of 30_encoding R88: INIT (45_init_sequence R230), READ and
RESET (44_counter_access R215, R216), ENV, FWD and REV. They are built from the operations and from ticks; no word of
the encoding is theirs. A list of lines gives a host program and a script; the script's current levels go from each line
to the next. -/

namespace Sys2Proof.Machine

/-- `sint16` (00_scope R8). -/
def sint16 (v : BitVec 16) : Int := if v.toNat < 0x8000 then (v.toNat : Int) else (v.toNat : Int) - 0x10000

/-- `uint16` (00_scope R8). -/
def uint16 (i : Int) : BitVec 16 := BitVec.ofInt 16 i

/-- `PCR_INIT(ch, p)` (R230). -/
def pcrInit (prm : Params) (ch : Ch) (p : Phase) : Word := place 3 (prm.altQd ch p) 8 ||| 0x10#32 ||| 0x02#32

/-- `FILTER_INIT` (R230). -/
def filterInit (prm : Params) : Word := place 4 prm.fvalInit 4 ||| place 4 prm.fvalInit 0

/-- `QD_INIT` (R230). -/
def qdInit (prm : Params) : Word := 0xC1#32 ||| place 1 prm.polAInit 5 ||| place 1 prm.polBInit 4

/-- `INIT ch`: the sixteen writes of R230, in order. -/
def initOps (prm : Params) (ch : Ch) : List Instr :=
  [.wPcrA ch (pcrInit prm ch .a), .wPcrB ch (pcrInit prm ch .b), .wMode ch 0x4#32, .wMode ch 0x5#32] ++
  [.wQdctrl ch 0#32, .wSc ch 0#32, .wC0sc ch 0#32, .wC0v ch 0#32, .wC1sc ch 0#32, .wC1v ch 0#32] ++
  [.wFilter ch (filterInit prm), .wCntin ch 0#32, .wMod ch 0xFFFF#32, .wCnt ch 0#32] ++
  [.wQdctrl ch (qdInit prm), .wFms ch 0x40#32]

/-- `INIT ch` as transaction words (R88). -/
def initWords (prm : Params) (ch : Ch) : List TWord := (initOps prm ch).map encode

/-- `READ ch` (R215): one R.CNT. -/
def readOp (ch : Ch) : Instr := .rCnt ch

/-- The value `READ` gives for the word that R.CNT returned (R215). -/
def readValue (r : Word) : Int := sint16 (low16 r)

/-- `RESET ch, v` (R216): one W.CNT. -/
def resetOp (ch : Ch) (v : Int) : Instr := .wCnt ch (zext16 (uint16 v))

/-- The level of a driven pin. -/
def levelOf (b : Bit) : Level := if b = 1#1 then .high else .low

/-- The raw bit of a pin at an environment level; an undriven pin is at the level `pull` it is pulled to (log 25). -/
def bitOf (pull : Bit) : Level → Bit
  | .low => 0#1
  | .high => 1#1
  | .z => pull

/-- The next raw pair of the forward cycle 00, 10, 11, 01 (R88, 43_quadrature_decode R185). -/
def grayNext (x : Bit × Bit) : Bit × Bit := (~~~x.2, x.1)

/-- The next raw pair of the reverse cycle (R88, 43_quadrature_decode R185). -/
def grayPrev (x : Bit × Bit) : Bit × Bit := (x.2, ~~~x.1)

/-- The raw pair at the environment levels `x` of an instance. -/
def rawPair (pull : Phase → Bit) (x : Level × Level) : Bit × Bit := (bitOf (pull .a) x.1, bitOf (pull .b) x.2)

/-- One transition of a directive (R88): the pin whose bit `next` changes is driven to its new level; the other pin
stays as it is. -/
def turnOnce (next : Bit × Bit → Bit × Bit) (pull : Phase → Bit) (x : Level × Level) : Level × Level :=
  let r := rawPair pull x
  (if (next r).1 = r.1 then x.1 else levelOf (next r).1, if (next r).2 = r.2 then x.2 else levelOf (next r).2)

/-- The levels after `k` transitions from the levels `x`. -/
def turnLevels (next : Bit × Bit → Bit × Bit) (pull : Phase → Bit) : Nat → Level × Level → Level × Level
  | 0, x => x
  | k + 1, x => turnLevels next pull k (turnOnce next pull x)

/-- `ENV ch A=la B=lb xn`: the levels `x` at `n` consecutive ticks (R88). -/
def envMoves (ch : Ch) (x : Level × Level) (n : Nat) : List Move := List.replicate n (.tick ch x.1 x.2)

/-- `k` transitions from the levels `x`, each holding its new levels for `h` ticks (R88). -/
def turnMoves (next : Bit × Bit → Bit × Bit) (pull : Phase → Bit) (ch : Ch) (h : Nat) : Nat → Level × Level → List Move
  | 0, _ => []
  | k + 1, x => envMoves ch (turnOnce next pull x) h ++ turnMoves next pull ch h k (turnOnce next pull x)

/-- A line of a program as the spec writes it: an operation (R87), a pseudo-instruction or a directive (R88). -/
inductive Line where
  /-- `W<ch> <REG>, <imm32>` or `R<ch> <REG>` -/
  | op (i : Instr)
  /-- a transaction word written out, reserved ones among them -/
  | word (t : TWord)
  /-- `INIT <ch>` -/
  | init (ch : Ch)
  /-- `READ <ch>` -/
  | read (ch : Ch)
  /-- `RESET <ch>, <v>` -/
  | reset (ch : Ch) (v : Int)
  /-- `ENV <ch> A=<la> B=<lb> x<n>` -/
  | env (ch : Ch) (la lb : Level) (n : Nat)
  /-- `FWD <ch>, <k>, <h>` -/
  | fwd (ch : Ch) (k h : Nat)
  /-- `REV <ch>, <k>, <h>` -/
  | rev (ch : Ch) (k h : Nat)
  deriving DecidableEq, Repr

/-- The script's current levels (R88): those of each instance's two pins. -/
structure ScriptLevels where
  ch0 : Level × Level
  ch1 : Level × Level
  deriving DecidableEq, Repr

/-- The current levels of one instance. -/
def levelsAt (e : ScriptLevels) : Ch → Level × Level
  | .ch0 => e.ch0
  | .ch1 => e.ch1

/-- The current levels with one instance's replaced. -/
def setLevels (e : ScriptLevels) (ch : Ch) (x : Level × Level) : ScriptLevels :=
  match ch with
  | .ch0 => { e with ch0 := x }
  | .ch1 => { e with ch1 := x }

/-- The transaction words a line stands for (R88); a directive stands for none. -/
def lineWords (prm : Params) : Line → List TWord
  | .op i => [encode i]
  | .word t => [t]
  | .init ch => initWords prm ch
  | .read ch => [encode (readOp ch)]
  | .reset ch v => [encode (resetOp ch v)]
  | .env _ _ _ _ => []
  | .fwd _ _ _ => []
  | .rev _ _ _ => []

/-- The moves of a line: one turn of the host for each of its words, or the ticks of a directive, from the script's
current levels `e` (R88). -/
def lineMoves (prm : Params) (pull : Ch → Phase → Bit) (e : ScriptLevels) : Line → List Move
  | .env ch la lb n => envMoves ch (la, lb) n
  | .fwd ch k h => turnMoves grayNext (pull ch) ch h k (levelsAt e ch)
  | .rev ch k h => turnMoves grayPrev (pull ch) ch h k (levelsAt e ch)
  | .op _ => [.host]
  | .word _ => [.host]
  | .init ch => List.replicate (initWords prm ch).length .host
  | .read _ => [.host]
  | .reset _ _ => [.host]

/-- The script's current levels after a line. An ENV of no ticks leaves them (log 25). -/
def lineLevels (pull : Ch → Phase → Bit) (e : ScriptLevels) : Line → ScriptLevels
  | .env ch la lb n => if n = 0 then e else setLevels e ch (la, lb)
  | .fwd ch k _ => setLevels e ch (turnLevels grayNext (pull ch) k (levelsAt e ch))
  | .rev ch k _ => setLevels e ch (turnLevels grayPrev (pull ch) k (levelsAt e ch))
  | .op _ => e
  | .word _ => e
  | .init _ => e
  | .read _ => e
  | .reset _ _ => e

/-- The host program of a list of lines (R80). -/
def programOf (prm : Params) (ls : List Line) : List TWord := ls.flatMap (lineWords prm)

/-- The script's current levels after a list of lines, from the levels `e` before it (R88). -/
def levelsAfter (pull : Ch → Phase → Bit) : ScriptLevels → List Line → ScriptLevels
  | e, [] => e
  | e, l :: ls => levelsAfter pull (lineLevels pull e l) ls

/-- The script of a list of lines, from the levels `e` before it. Each directive starts from the levels the lines before
it have left; host turns and ticks interleave as they are written (R88). -/
def scriptOf (prm : Params) (pull : Ch → Phase → Bit) : ScriptLevels → List Line → List Move
  | _, [] => []
  | e, l :: ls => lineMoves prm pull e l ++ scriptOf prm pull (lineLevels pull e l) ls

/-- The run of a list of lines from power-on: a launch (60_exceptions R263) with their program and their script. -/
def powerCycleLines (pull : Ch → Phase → Bit) (e : ScriptLevels) (ls : List Line) : State :=
  powerCycle (programOf Config.params ls) (scriptOf Config.params pull e ls)

end Sys2Proof.Machine
end

