-- ==== Sys2Proof/Safety.lean ====
section
/-! DEFINITION. What counts as a safe run, in the spec's own terms: the states of the write-protect gate (41 R121), the
configured state (45 R233), the named premises (70 R285), and the invariants the statements use. -/

namespace Sys2Proof.Machine

/-- "Locked", the protected state (R121). -/
def Locked (c : Channel) : Prop := c.wpen = 1#1

/-- "HalfOpen", the handshake incomplete (R121). -/
def HalfOpen (c : Channel) : Prop := c.wpen = 0#1 ∧ c.mode.ftmen = 0#1

/-- "Open", the write-protect-disable condition asserted (R121). -/
def Opened (c : Channel) : Prop := c.wpen = 0#1 ∧ c.mode.ftmen = 1#1

/-- The pin-control register of a configured phase (R233). -/
def configuredPcr (prm : Params) (ch : Ch) (p : Phase) : Pcr where
  irqc := 0#4
  lk := 0#1
  mux := prm.altQd ch p
  dse := 0#1
  ode := 0#1
  pfe := 1#1
  sre := 0#1
  pe := 1#1
  ps := 0#1

/-- The decode control register of a configured instance (R233). -/
def configuredQdctrl (prm : Params) : Qdctrl where
  phafltren := 1#1
  phbfltren := 1#1
  phapol := prm.polAInit
  phbpol := prm.polBInit
  quadmode := 0#1
  quaden := 1#1

/-- `Configured(ch)` (R233). CNT is no part of it. It reads the registers alone, as R233 says, and not the order of the
writes: R238 says that each of its misorders gives a block that is not configured, and where all sixteen values stand at
the end of one, the model follows R233 (DESIGN CHOICE, log 21). -/
structure Configured (prm : Params) (ch : Ch) (c : Channel) : Prop where
  pcrA : c.pcrA = configuredPcr prm ch .a
  pcrB : c.pcrB = configuredPcr prm ch .b
  wpen : c.wpen = 1#1
  mode : c.mode = ⟨0#1, 0#2, 0#1, 0#1, 1#1⟩
  sc : c.sc = ⟨0#1, 0#1, 0#2, 0#3⟩
  c0sc : c.c0sc = ⟨0#1, 0#1, 0#1, 0#1, 0#1, 0#1⟩
  c1sc : c.c1sc = ⟨0#1, 0#1, 0#1, 0#1, 0#1, 0#1⟩
  c0v : c.c0v = 0#16
  c1v : c.c1v = 0#16
  filter : c.filter = ⟨prm.fvalInit, prm.fvalInit⟩
  cntin : c.cntin = 0#16
  mod : c.mod = 0xFFFF#16
  qdctrl : c.qdctrl = configuredQdctrl prm

/-- An event is a `LockedWrite` (10 R39). -/
def Event.isLockedWrite : Event → Bool
  | .lockedWrite _ _ => true
  | .busOp _ _ _ _ => false

/-- `NoLockedWrite` (R276). -/
def noLockedWrite (s : State) : Bool := !s.hist.any Event.isLockedWrite

/-- An event is a write of a pin-control register of `ch`. -/
def Event.isPinWrite (ch : Ch) : Event → Bool
  | .busOp x .write .pcrA _ => x == ch
  | .busOp x .write .pcrB _ => x == ch
  | _ => false

/-- `NoPinRewrite(ch)` (R277), on the events after the last one of `INIT ch`. -/
def noPinRewrite (ch : Ch) (afterInit : List Event) : Bool := !afterInit.any (Event.isPinWrite ch)

/-- The environment's levels at the ticks of `ch`, in order (10 R40). -/
def tickLevels (ch : Ch) (script : List Move) : List (Level × Level) :=
  script.filterMap fun m => match m with
    | .host => none
    | .tick x la lb => if x = ch then some (la, lb) else none

/-- Add one level to the front of a list of runs; an undriven pin is a level of its own (DESIGN CHOICE, log 22). -/
def consRun (l : Level) : List (Level × Nat) → List (Level × Nat)
  | [] => [(l, 1)]
  | (m, n) :: rest => if l = m then (m, n + 1) :: rest else (l, 1) :: (m, n) :: rest

/-- The runs of equal levels, each with its length in ticks. -/
def runsOf (ls : List Level) : List (Level × Nat) := ls.foldr consRun []

/-- Every level that follows a change is held for at least `n` ticks (R283). `ls` begins with the level before the
script, where the pin was at rest: the run it begins is not asked, and every other run, the last among them, is (DEDUCED,
log 17). An undriven pin and the level it is pulled to count as two levels (DESIGN CHOICE, log 22). -/
def heldFor (n : Nat) (ls : List Level) : Bool := ((runsOf ls).drop 1).all fun r => decide (n ≤ r.2)

/-- The ticks (counted from `k`) at which a level differs from the one before; an undriven pin differs from a driven one
(DESIGN CHOICE, log 22). -/
def changesFrom : Nat → List Level → List Nat
  | k, l :: m :: rest => (if l = m then [] else [k + 1]) ++ changesFrom (k + 1) (m :: rest)
  | _, _ => []

/-- No change of phase A lies within `slack` ticks of a change of phase B (R283, 43 R191; DEDUCED, log 17). -/
def farApart (slack : Nat) (as bs : List Level) : Bool :=
  (changesFrom 0 as).all fun i => (changesFrom 0 bs).all fun j => decide (i + slack < j) || decide (j + slack < i)

/-- `WellFormedEnv(ch)` (R283), with `T = FILTER_SCALE × FVAL_INIT`, of a script that finds the pins at rest on the
levels `rest`: both conditions, on those levels and the script's ticks. R283 also says that the scripts of
95_test_vectors meet it; program 4 there breaks the first condition, and the model follows the condition (DESIGN CHOICE,
log 23). -/
def wellFormedEnv (prm : Params) (ch : Ch) (rest : Level × Level) (script : List Move) : Bool :=
  let ls := rest :: tickLevels ch script
  let t := prm.filterScale * prm.fvalInit.toNat + prm.filterSlack
  heldFor t (ls.map Prod.fst) && heldFor t (ls.map Prod.snd) &&
    farApart prm.filterSlack (ls.map Prod.fst) (ls.map Prod.snd)

/-- What a transition adds to the counter, modulo 65536 (43 R186); none for an illegal one. -/
def deltaValue : Delta → Option (BitVec 16)
  | .zero => some 0#16
  | .up => some 1#16
  | .down => some (-1#16)
  | .ill => none

/-- The pair `a ‖ b` of an environment's levels in the configured state (43 R185, 40 R105): an undriven pin is pulled
down, and the polarities apply. -/
def envPair (prm : Params) (x : Level × Level) : BitVec 2 :=
  (bitOf 0#1 x.1 ^^^ prm.polAInit) ++ (bitOf 0#1 x.2 ^^^ prm.polBInit)

/-- The net count of a sequence of pairs, modulo 65536; none where one of its transitions is illegal. -/
def netCount : List (BitVec 2) → Option (BitVec 16)
  | [] => some 0#16
  | [_] => some 0#16
  | x :: y :: rest =>
    match deltaValue (qd x y), netCount (y :: rest) with
    | some v, some w => some (v + w)
    | _, _ => none

/-- The filters of a configured instance have settled on the levels `rest`: no candidate is counted, and the latch holds
the pair. -/
structure Settled (c : Channel) (rest : Level × Level) : Prop where
  foutA : c.foutA = bitOf 0#1 rest.1
  foutB : c.foutB = bitOf 0#1 rest.2
  fcntA : c.fcntA = 0
  fcntB : c.fcntB = 0
  latch : c.latch = some c.pair

/-- What happens in a run: an operation, or a tick with its two levels. -/
inductive Act where
  | op (i : Instr)
  | tick (ch : Ch) (la lb : Level)
  deriving DecidableEq, Repr

/-- The state after an operation. `exec` always answers a next state (60 R250). -/
def execNext (i : Instr) (s : State) : State :=
  match exec i s with
  | .next t => t
  | .fault _ => s
  | .refused _ => s

/-- The state after one act. -/
def runAct (s : State) : Act → State
  | .op i => execNext i s
  | .tick ch la lb => tick ch la lb s

/-- The state after a sequence of acts: any interleaving of operations and ticks (20 R68). -/
def runActs (acts : List Act) (s : State) : State := acts.foldl runAct s

/-- The operations on `ch` among the acts, in order. -/
def opsOn (ch : Ch) (acts : List Act) : List Instr :=
  acts.filterMap fun x => match x with
    | .op i => if i.channel = ch then some i else none
    | .tick _ _ _ => none

/-- The levels at the ticks of `ch` among the acts, in order. -/
def actLevels (ch : Ch) (acts : List Act) : List (Level × Level) :=
  acts.filterMap fun x => match x with
    | .op _ => none
    | .tick y la lb => if y = ch then some (la, lb) else none

/-- The acts after the `n`-th operation on `ch`. -/
def afterOps (ch : Ch) : Nat → List Act → List Act
  | 0, acts => acts
  | _, [] => []
  | n + 1, x :: acts => if (opsOn ch [x]).isEmpty then afterOps ch (n + 1) acts else afterOps ch n acts

/-- The acts before the next operation on `ch` that completes `n` of them. -/
def beforeOps (ch : Ch) (n : Nat) (acts : List Act) : List Act := acts.take (acts.length - (afterOps ch n acts).length)

/-- `SettledAtEnable(ch)` (R289), on acts that begin with `INIT ch`: a tick of `ch` falls between writes 5 and 15, and
the levels on every such tick are those of the first tick after write 15. Where no tick of `ch` follows write 15 there is
no level to compare with: the condition on the levels then counts as met (DESIGN CHOICE, log 24). -/
def settledAtEnable (ch : Ch) (acts : List Act) : Bool :=
  let window := actLevels ch (beforeOps ch 10 (afterOps ch 5 acts))
  let after := (actLevels ch (afterOps ch 15 acts)).head?
  !window.isEmpty && window.all fun l => after == none || after == some l

/-- No interrupt enable and no pin feature is on unless something was refused (60 R254, 10 R41): an invariant of every
step. -/
def EnablesOffUnlessRefused (s : State) : Prop :=
  s.refusals = [] → s.ch0.enablesOff = true ∧ s.ch1.enablesOff = true

/-- A filter count never reaches the largest acceptance threshold, `FILTER_SCALE × 15 + FILTER_SLACK` (43 R184): an
invariant of every step. -/
def FilterCountsBounded (prm : Params) (c : Channel) : Prop :=
  c.fcntA < prm.filterScale * 15 + prm.filterSlack ∧ c.fcntB < prm.filterScale * 15 + prm.filterSlack

/-- The record of an instance after a sequence of its ticks, each with its two levels (43 R187). -/
def runTicks (prm : Params) (ch : Ch) (ls : List (Level × Level)) (c : Channel) : Channel :=
  ls.foldl (fun c l => tickChannel prm ch l.1 l.2 c) c

/-- The acts of instance `ch` alone: its operations and its ticks (20 R71). -/
def actsOn (ch : Ch) (acts : List Act) : List Act :=
  acts.filter fun x => match x with
    | .op i => i.channel == ch
    | .tick y _ _ => y == ch

/-- `i` is the unlock write of `ch`: a MODE write with `d[2] = 1` (41 R120). -/
def unlocks (ch : Ch) (i : Instr) : Bool :=
  match i with
  | .wMode x d => x == ch && d.extractLsb' 2 1 == 1#1
  | _ => false

/-- `i` is a pin-control write of `ch` with a value other than `PCR_INIT` (45 R235). -/
def rewritesPins (prm : Params) (ch : Ch) (i : Instr) : Bool :=
  match i with
  | .wPcrA x d => x == ch && d != pcrInit prm ch .a
  | .wPcrB x d => x == ch && d != pcrInit prm ch .b
  | _ => false

/-- What the statements say a read leaves: the whole next state. The instance takes `k` free values, the host gets the
word `r`, the history its `BusOp` (10 R39), `pc` goes on by one (10 R22), and all else stays. -/
def afterRead (s : State) (ch : Ch) (reg : Reg) (r : Word) (k : Nat) : State where
  ch0 := if ch = .ch0 then { s.ch0 with draws := s.ch0.draws + k } else s.ch0
  ch1 := if ch = .ch1 then { s.ch1 with draws := s.ch1.draws + k } else s.ch1
  pc := s.pc + 1
  refusals := s.refusals
  hist := s.hist ++ [.busOp ch .read reg 0#32]
  results := s.results ++ [r]
  program := s.program
  script := s.script

/-- What the statements say a write leaves: the whole next state. The instance's record becomes `c`, the events
`events` and then the `BusOp` are recorded, the reasons `reasons` are refused, `pc` goes on by one, and all else stays. -/
def afterWrite (s : State) (ch : Ch) (reg : Reg) (d : Word) (c : Channel) (events : List Event)
    (reasons : List RefuseReason) : State where
  ch0 := if ch = .ch0 then c else s.ch0
  ch1 := if ch = .ch1 then c else s.ch1
  pc := s.pc + 1
  refusals := s.refusals ++ reasons
  hist := s.hist ++ events ++ [.busOp ch .write reg d]
  results := s.results
  program := s.program
  script := s.script

/-- The transaction word with the fields W, CH, SEL and DATA, for the instance `ch` (30_encoding R81): CH = 0 is channel
0, CH = 1 is channel 1. -/
def transaction (w : Bit) (ch : Ch) (sel : BitVec 6) (data : Word) : TWord :=
  w ++ (if ch = .ch0 then 0#1 else 1#1) ++ sel ++ data

/-- `i` is the read of selector `sel` on `ch`: the word W = 0, CH, SEL = `sel`, DATA = 0 is `i`, and the word with any
other DATA is refused `ReservedEncoding` (30_encoding R84). -/
structure ReadWordOf (i : Instr) (ch : Ch) (sel : BitVec 6) : Prop where
  operation : decode (transaction 0#1 ch sel 0#32) = .ok i
  reserved : ∀ (d : Word) (s : State), d ≠ 0#32 → runWord (transaction 0#1 ch sel d) s =
    .next { s with refusals := s.refusals ++ [.reservedEncoding], pc := s.pc + 1 }

/-- `i` is the write of `d` to selector `sel` on `ch`: the word W = 1, CH, SEL = `sel`, DATA = `d` is `i`. -/
def WriteWordOf (i : Instr) (ch : Ch) (sel : BitVec 6) (d : Word) : Prop :=
  decode (transaction 1#1 ch sel d) = .ok i

/-- `i` is the write of `d` to selector `sel` on `ch`, and `exec i s` is the gated write (41 R120, 42 R140) in each of the
three lock states. Locked: ignored and recorded. Open: the record becomes `c` and the reasons `reasons` are refused.
HalfOpen: the next free value of the instance decides which of the two happens, with nothing recorded but the `BusOp`,
and it is spent. -/
structure GatedWriteOf (i : Instr) (sel : BitVec 6) (s : State) (ch : Ch) (reg : Reg) (d : Word) (c : Channel)
    (reasons : List RefuseReason) : Prop where
  word : WriteWordOf i ch sel d
  locked : Locked (s.chan ch) → exec i s = .next (afterWrite s ch reg d (s.chan ch) [.lockedWrite ch reg] [])
  opened : Opened (s.chan ch) → exec i s = .next (afterWrite s ch reg d c [] reasons)
  halfOpen : HalfOpen (s.chan ch) → exec i s = .next (
    if Config.freeValue 1 ch (s.chan ch).draws = 1#1 then
      afterWrite s ch reg d { c with draws := (s.chan ch).draws + 1 } [] reasons
    else afterWrite s ch reg d { s.chan ch with draws := (s.chan ch).draws + 1 } [] [])

/-- The counter of `c` is a fresh free value: one that the instance had not taken at `before` (00 R10). -/
def FreshCount (ch : Ch) (before c : Channel) : Prop :=
  ∃ n, before.draws ≤ n ∧ c.cnt = Config.freeValue 16 ch n ∧ c.draws = n + 1

/-- The place of a pair in the forward cycle 00, 10, 11, 01 (43 R185). -/
def cyclePlace (x : BitVec 2) : Nat :=
  if x = 0b00#2 then 0 else if x = 0b10#2 then 1 else if x = 0b11#2 then 2 else 3

/-- The fields that the gate protects (10 R38). -/
def sameProtected (c c' : Channel) : Prop :=
  c'.sc = c.sc ∧ c'.mod = c.mod ∧ c'.c0sc = c.c0sc ∧ c'.c0v = c.c0v ∧ c'.c1sc = c.c1sc ∧ c'.c1v = c.c1v ∧
    c'.cntin = c.cntin ∧ c'.mode = c.mode ∧ c'.filter = c.filter ∧ c'.qdctrl = c.qdctrl

/-- The twenty-eight bus addresses are distinct and word-aligned: what 20_memory R61 to R63 take of the OPEN
addresses. -/
def busMapSound (m : BusMap) : Bool :=
  (busRegs.map fun x => busAddr m x.1 x.2).all (fun a => a.toNat % 4 == 0) &&
    (busRegs.all fun x => busRegs.all fun y => x == y || busAddr m x.1 x.2 != busAddr m y.1 y.2)

end Sys2Proof.Machine
end

