-- ==== Sys2Proof/Certificates/Slice0/Obligations.lean ====
section
/-! DEFINITION. The statements for the provers, in the order of spec/'s files. A statement marked "derived" rests on rules
that the spec itself marks [derived: …], or on a convention of the model that its docstring names. -/

open Sys2Proof Sys2Proof.Machine

/-! ## Encoding and the step -/

/-- Every operation's word decodes to that operation, with every operand at every value (R81, R82, R86). -/
def Obligations.DecodeEncodeAllInstr : Prop := ∀ i : Instr, decode (encode i) = .ok i

/-- A word that decodes is the word of the operation it decodes to: no bit of it is dropped (R81, R82, R86). -/
def Obligations.EncodeOfDecodedWord : Prop := ∀ (w : TWord) (i : Instr), decode w = .ok i → encode i = w

/-- R84: a word is an operation exactly where its SEL is assigned and, for a read, its DATA is 0; any other is refused
`ReservedEncoding`, changes nothing else and advances `pc`. -/
def Obligations.ReservedWordsAreRefused : Prop :=
  ∀ (w : TWord) (s : State),
    ((∃ i, decode w = .ok i) ↔
      (w.extractLsb' 32 6 ∈ assignedSelectors ∧ (w.extractLsb' 39 1 = 1#1 ∨ w.extractLsb' 0 32 = 0#32))) ∧
    ((¬ ∃ i, decode w = .ok i) →
      runWord w s = .next { s with refusals := s.refusals ++ [.reservedEncoding], pc := s.pc + 1 })

/-- R86: a word decodes to an operation of a row of the opcode table exactly where it has the row's match under the
row's mask. -/
def Obligations.DecodeFollowsOpcodeTable : Prop :=
  ∀ (w : TWord) (i : Instr),
    w &&& i.mask = i.matchBits ↔ ∃ j, decode w = .ok j ∧ j.matchBits = i.matchBits ∧ j.mask = i.mask

/-- Words of 95_test_vectors part 2.1, each written out from R81 and R82. -/
def Obligations.SampleWordsDecode : Prop :=
  decode 0x0100000000#40 = .ok (.rCnt .ch0) ∧ decode 0x4100000000#40 = .ok (.rCnt .ch1) ∧
  decode 0xC1FFFF1234#40 = .ok (.wCnt .ch1 0xFFFF1234#32) ∧ decode 0x9500000004#40 = .ok (.wMode .ch0 0x4#32) ∧
  decode 0xDD00000040#40 = .ok (.wFms .ch1 0x40#32) ∧ decode 0x7F00000000#40 = .ok (.rPcrB .ch1) ∧
  decode 0xE0000000C1#40 = .ok (.wQdctrl .ch1 0xC1#32) ∧
  decode 0x0700000000#40 = .error (.reservedSelector 0x07#6) ∧
  decode 0x0100000001#40 = .error (.readWithData 1#32)

/-- A step whose turn is the host's runs the operation that the word at `pc` decodes to. Whose turn it is, is the
model's convention (log 1): the script's first move, or the host's where the script is empty. -/
def Obligations.StepRunsDecodedOperation : Prop :=
  ∀ (s : State) (t : TWord) (i : Instr), s.program[s.pc]? = some t → decode t = .ok i →
    (∀ rest, s.script = .host :: rest → step s = exec i { s with script := rest }) ∧
    (s.script = [] → step s = exec i s)

/-- A step whose turn is a tick agent's changes that instance's record by one tick and takes the move off the script;
the other instance, the host, the history and the program stay (R183, R187). The script is the model's convention
(log 1). -/
def Obligations.StepTakesScriptedTick : Prop :=
  ∀ (s : State) (ch : Ch) (la lb : Level) (rest : List Move), s.script = .tick ch la lb :: rest →
    ∃ t, step s = .next t ∧ t.chan ch = tickChannel Config.params ch la lb (s.chan ch) ∧
      (∀ x, x ≠ ch → t.chan x = s.chan x) ∧ t.pc = s.pc ∧ t.refusals = s.refusals ∧ t.hist = s.hist ∧
      t.results = s.results ∧ t.program = s.program ∧ t.script = rest

/-- The one stop of the machine: a step faults exactly where the host program is done and no scripted tick is left
(R288); everywhere else it answers a next state. That `step` faults there is the model's choice (log 6). -/
def Obligations.OnlyTheEndOfARunStops : Prop :=
  ∀ s : State,
    (step s = .fault .endOfRun ↔ s.program.length ≤ s.pc ∧ ∀ m ∈ s.script, m.isTick = false) ∧
    (¬ (s.program.length ≤ s.pc ∧ ∀ m ∈ s.script, m.isTick = false) → ∃ t, step s = .next t)

/-- R250: every operation completes in one step, whatever its operands and whatever the state. With it, R22's
`pc <- pc + 1`, and that no operation changes the program or the script. -/
def Obligations.EveryOperationCompletes : Prop :=
  ∀ (i : Instr) (s : State),
    ∃ t, exec i s = .next t ∧ t.pc = s.pc + 1 ∧ t.program = s.program ∧ t.script = s.script

/-! ## Pin control -/

/-- R101, R103: the words of the two reads, and what they return: the stored fields, ISF (bit 24) the next free value,
the reserved bits 0. -/
def Obligations.PinControlReads : Prop :=
  ∀ (s : State) (ch : Ch),
    let isf : Bit := Config.freeValue 1 ch (s.chan ch).draws
    let word := fun p : Pcr => 0#7 ++ isf ++ 0#4 ++ p.irqc ++ p.lk ++ 0#4 ++ p.mux ++ 0#1 ++ p.dse ++ p.ode ++ p.pfe ++
      0#1 ++ p.sre ++ p.pe ++ p.ps
    ReadWordOf (.rPcrA ch) ch 0x3E#6 ∧
    exec (.rPcrA ch) s = .next (afterRead s ch .pcrA (word (s.chan ch).pcrA) 1) ∧
    ReadWordOf (.rPcrB ch) ch 0x3F#6 ∧
    exec (.rPcrB ch) s = .next (afterRead s ch .pcrB (word (s.chan ch).pcrB) 1)

/-- R102, R104, R100: the words of the two writes; a write of a pin-control register stores every field whatever the write protection holds, and
refuses `PinFeatureOutOfScope` where `d[19:16] ≠ 0` or `d[15] = 1`. -/
def Obligations.PinControlWrites : Prop :=
  ∀ (s : State) (ch : Ch) (d : Word),
    let p : Pcr := { irqc := d.extractLsb' 16 4, lk := d.extractLsb' 15 1, mux := d.extractLsb' 8 3,
                     dse := d.extractLsb' 6 1, ode := d.extractLsb' 5 1, pfe := d.extractLsb' 4 1,
                     sre := d.extractLsb' 2 1, pe := d.extractLsb' 1 1, ps := d.extractLsb' 0 1 }
    let reasons : List RefuseReason :=
      if d.extractLsb' 16 4 ≠ 0#4 ∨ d.extractLsb' 15 1 = 1#1 then [.pinFeatureOutOfScope] else []
    WriteWordOf (.wPcrA ch d) ch 0x3E#6 d ∧ WriteWordOf (.wPcrB ch d) ch 0x3F#6 d ∧
    exec (.wPcrA ch d) s = .next (afterWrite s ch .pcrA d { s.chan ch with pcrA := p } [] reasons) ∧
    exec (.wPcrB ch d) s = .next (afterWrite s ch .pcrB d { s.chan ch with pcrB := p } [] reasons)

/-- R105: the level of a phase pin. -/
def Obligations.PinLevelOfEnvironment : Prop :=
  ∀ (ch : Ch) (p : Phase) (c : Channel),
    (pinLevel ch p .low c = (0#1, c) ∧ pinLevel ch p .high c = (1#1, c)) ∧
    ((c.pcr p).pe = 1#1 → pinLevel ch p .z c = ((c.pcr p).ps, c)) ∧
    ((c.pcr p).pe = 0#1 → pinLevel ch p .z c =
      (Config.freeValue 1 ch c.draws, { c with draws := c.draws + 1 }))

/-- R107: the decoder sees the pin exactly where the pin is routed to it; else it sees a fresh free value. -/
def Obligations.DecoderInputRouting : Prop :=
  ∀ (prm : Params) (ch : Ch) (p : Phase) (l : Level) (c : Channel),
    ((c.pcr p).mux = prm.altQd ch p → decIn prm ch p l c = pinLevel ch p l c) ∧
    ((c.pcr p).mux ≠ prm.altQd ch p → decIn prm ch p l c =
      (Config.freeValue 1 ch c.draws, { c with draws := c.draws + 1 }))

/-! ## Write protection -/

/-- R125: W.MODE, its word, and what it does Locked and not. -/
def Obligations.ModeWrite : Prop :=
  ∀ (s : State) (ch : Ch) (d : Word),
    let c := s.chan ch
    let latch : Bit := if d.extractLsb' 2 1 = 1#1 then 0#1 else c.wpen
    let fields : Mode := { faultie := d.extractLsb' 7 1, faultm := d.extractLsb' 5 2, captest := d.extractLsb' 4 1,
                           pwmsync := d.extractLsb' 3 1, ftmen := d.extractLsb' 0 1 }
    WriteWordOf (.wMode ch d) ch 0x15#6 d ∧
    (c.wpen = 1#1 → exec (.wMode ch d) s = .next (afterWrite s ch .mode d { c with wpen := latch }
      (if d.extractLsb' 2 1 = 0#1 then [.lockedWrite ch .mode] else []) [])) ∧
    (c.wpen = 0#1 → exec (.wMode ch d) s = .next (afterWrite s ch .mode d { c with mode := fields, wpen := latch } []
      (if d.extractLsb' 7 1 = 1#1 then [.interruptOutOfScope] else [])))

/-- R126: R.MODE, its word, and what it returns: bit 2 is the inverse of the latch, bit 1 the next free value. -/
def Obligations.ModeRead : Prop :=
  ∀ (s : State) (ch : Ch),
    let m := (s.chan ch).mode
    let init : Bit := Config.freeValue 1 ch (s.chan ch).draws
    ReadWordOf (.rMode ch) ch 0x15#6 ∧
    exec (.rMode ch) s = .next (afterRead s ch .mode
      (0#24 ++ m.faultie ++ m.faultm ++ m.captest ++ m.pwmsync ++ (~~~(s.chan ch).wpen) ++ init ++ m.ftmen) 1)

/-- R127: W.FMS, its word, and what it does: it sets the latch where `d[6] = 1`, and nothing else. -/
def Obligations.FmsWrite : Prop :=
  ∀ (s : State) (ch : Ch) (d : Word),
    WriteWordOf (.wFms ch d) ch 0x1D#6 d ∧
    exec (.wFms ch d) s = .next (afterWrite s ch .fms d
      { s.chan ch with wpen := if d.extractLsb' 6 1 = 1#1 then 1#1 else (s.chan ch).wpen } [] [])

/-- R128: R.FMS, its word, and what it returns: bit 6 is the latch; bit 7 and bits 5:0 are the next two free values. -/
def Obligations.FmsRead : Prop :=
  ∀ (s : State) (ch : Ch),
    let faultf : Bit := Config.freeValue 1 ch (s.chan ch).draws
    let faults : BitVec 6 := Config.freeValue 6 ch ((s.chan ch).draws + 1)
    ReadWordOf (.rFms ch) ch 0x1D#6 ∧
    exec (.rFms ch) s = .next (afterRead s ch .fms (0#24 ++ faultf ++ (s.chan ch).wpen ++ faults) 2)

/-- R129 (the spec marks it [derived]): from any state the two handshake writes reach Open, with the other MODE fields
0, and neither records `LockedWrite` nor refuses. -/
def Obligations.HandshakeReachesOpen : Prop :=
  ∀ (s : State) (ch : Ch),
    let t := execNext (.wMode ch 0x5#32) (execNext (.wMode ch 0x4#32) s)
    Opened (t.chan ch) ∧ (t.chan ch).mode = ⟨0#1, 0#2, 0#1, 0#1, 1#1⟩ ∧ t.refusals = s.refusals ∧
      t.hist = s.hist ++ [.busOp ch .write .mode 0x4#32, .busOp ch .write .mode 0x5#32]

/-- R238, second item (the spec marks it [derived]): the handshake's writes in reverse order, from Locked, leave
HalfOpen. -/
def Obligations.ReversedHandshakeLeavesHalfOpen : Prop :=
  ∀ (s : State) (ch : Ch), Locked (s.chan ch) →
    HalfOpen ((execNext (.wMode ch 0x4#32) (execNext (.wMode ch 0x5#32) s)).chan ch)

/-- R130 (the spec marks it [derived]): a Locked instance stays Locked with every protected field as it was, whatever
operations and ticks follow, as long as none of them is its unlock write. -/
def Obligations.LockedStaysLocked : Prop :=
  ∀ (ch : Ch) (acts : List Act) (s : State), Locked (s.chan ch) → (∀ i, Act.op i ∈ acts → unlocks ch i = false) →
    Locked ((runActs acts s).chan ch) ∧ sameProtected (s.chan ch) ((runActs acts s).chan ch)

/-! ## Timer configuration -/

/-- R144, R146, R150, R154: the gated writes of the four 16-bit registers, with their words. -/
def Obligations.SixteenBitWrites : Prop :=
  ∀ (s : State) (ch : Ch) (d : Word),
    GatedWriteOf (.wMod ch d) 0x02#6 s ch .mod d { s.chan ch with mod := d.extractLsb' 0 16 } [] ∧
    GatedWriteOf (.wCntin ch d) 0x13#6 s ch .cntin d { s.chan ch with cntin := d.extractLsb' 0 16 } [] ∧
    GatedWriteOf (.wC0v ch d) 0x04#6 s ch .c0v d { s.chan ch with c0v := d.extractLsb' 0 16 } [] ∧
    GatedWriteOf (.wC1v ch d) 0x06#6 s ch .c1v d { s.chan ch with c1v := d.extractLsb' 0 16 } []

/-- R142, R148, R152: the gated writes of SC, C0SC and C1SC; an admitted write with `d[6] = 1` is refused
`InterruptOutOfScope` and stores its fields all the same. -/
def Obligations.StatusControlWrites : Prop :=
  ∀ (s : State) (ch : Ch) (d : Word),
    let reasons : List RefuseReason := if d.extractLsb' 6 1 = 1#1 then [.interruptOutOfScope] else []
    let x : Cnsc := { chie := d.extractLsb' 6 1, msb := d.extractLsb' 5 1, msa := d.extractLsb' 4 1,
                      elsb := d.extractLsb' 3 1, elsa := d.extractLsb' 2 1, dma := d.extractLsb' 0 1 }
    GatedWriteOf (.wSc ch d) 0x00#6 s ch .sc d
      { s.chan ch with sc := ⟨d.extractLsb' 6 1, d.extractLsb' 5 1, d.extractLsb' 3 2, d.extractLsb' 0 3⟩ } reasons ∧
    GatedWriteOf (.wC0sc ch d) 0x03#6 s ch .c0sc d { s.chan ch with c0sc := x } reasons ∧
    GatedWriteOf (.wC1sc ch d) 0x05#6 s ch .c1sc d { s.chan ch with c1sc := x } reasons

/-- R156: the gated write of FILTER. R158: the gated write of QDCTRL, all six fields at once. -/
def Obligations.FilterAndDecoderWrites : Prop :=
  ∀ (s : State) (ch : Ch) (d : Word),
    let q : Qdctrl := { phafltren := d.extractLsb' 7 1, phbfltren := d.extractLsb' 6 1, phapol := d.extractLsb' 5 1,
                        phbpol := d.extractLsb' 4 1, quadmode := d.extractLsb' 3 1, quaden := d.extractLsb' 0 1 }
    GatedWriteOf (.wFilter ch d) 0x1E#6 s ch .filter d
      { s.chan ch with filter := { ch1fval := d.extractLsb' 4 4, ch0fval := d.extractLsb' 0 4 } } [] ∧
    GatedWriteOf (.wQdctrl ch d) 0x20#6 s ch .qdctrl d { s.chan ch with qdctrl := q } []

/-- R145, R147, R151, R155: the reads of the four 16-bit registers, with their words. -/
def Obligations.SixteenBitReads : Prop :=
  ∀ (s : State) (ch : Ch),
    ReadWordOf (.rMod ch) ch 0x02#6 ∧ ReadWordOf (.rCntin ch) ch 0x13#6 ∧ ReadWordOf (.rC0v ch) ch 0x04#6 ∧
    ReadWordOf (.rC1v ch) ch 0x06#6 ∧
    exec (.rMod ch) s = .next (afterRead s ch .mod (0#16 ++ (s.chan ch).mod) 0) ∧
    exec (.rCntin ch) s = .next (afterRead s ch .cntin (0#16 ++ (s.chan ch).cntin) 0) ∧
    exec (.rC0v ch) s = .next (afterRead s ch .c0v (0#16 ++ (s.chan ch).c0v) 0) ∧
    exec (.rC1v ch) s = .next (afterRead s ch .c1v (0#16 ++ (s.chan ch).c1v) 0)

/-- R143, R149, R153: the reads of SC, C0SC and C1SC, with their words; bit 7 is the next free value, reserved bits
read 0. -/
def Obligations.StatusControlReads : Prop :=
  ∀ (s : State) (ch : Ch),
    let x := (s.chan ch).sc
    let flag : Bit := Config.freeValue 1 ch (s.chan ch).draws
    let word := fun y : Cnsc =>
      0#24 ++ flag ++ y.chie ++ y.msb ++ y.msa ++ y.elsb ++ y.elsa ++ 0#1 ++ y.dma
    ReadWordOf (.rSc ch) ch 0x00#6 ∧ ReadWordOf (.rC0sc ch) ch 0x03#6 ∧ ReadWordOf (.rC1sc ch) ch 0x05#6 ∧
    exec (.rSc ch) s = .next (afterRead s ch .sc (0#24 ++ flag ++ x.toie ++ x.cpwms ++ x.clks ++ x.ps) 1) ∧
    exec (.rC0sc ch) s = .next (afterRead s ch .c0sc (word (s.chan ch).c0sc) 1) ∧
    exec (.rC1sc ch) s = .next (afterRead s ch .c1sc (word (s.chan ch).c1sc) 1)

/-- R157, R159: the reads of FILTER and QDCTRL, with their words; bits 2 and 1 of QDCTRL are the next two free values. -/
def Obligations.FilterAndDecoderReads : Prop :=
  ∀ (s : State) (ch : Ch),
    let q := (s.chan ch).qdctrl
    let quadir : Bit := Config.freeValue 1 ch (s.chan ch).draws
    let tofdir : Bit := Config.freeValue 1 ch ((s.chan ch).draws + 1)
    ReadWordOf (.rFilter ch) ch 0x1E#6 ∧ ReadWordOf (.rQdctrl ch) ch 0x20#6 ∧
    exec (.rFilter ch) s = .next (afterRead s ch .filter
      (0#24 ++ (s.chan ch).filter.ch1fval ++ (s.chan ch).filter.ch0fval) 0) ∧
    exec (.rQdctrl ch) s = .next (afterRead s ch .qdctrl
      (0#24 ++ q.phafltren ++ q.phbfltren ++ q.phapol ++ q.phbpol ++ q.quadmode ++ quadir ++ tofdir ++ q.quaden) 2)

/-! ## Counter access -/

/-- R211: R.CNT, its word, and what it does: it returns the counter, zero-extended, and changes nothing of the block. -/
def Obligations.CounterRead : Prop :=
  ∀ (s : State) (ch : Ch),
    ReadWordOf (.rCnt ch) ch 0x01#6 ∧
    exec (.rCnt ch) s = .next (afterRead s ch .cnt (0#16 ++ (s.chan ch).cnt) 0)

/-- R212: W.CNT, its word, and what it does in every lock state: with `CNT_WRITE_MODE = Direct` it loads `d[15:0]`, with
`LoadCNTIN` the CNTIN value, whatever the data; nothing else of the instance changes. R213: the operation is the
`Direct` one. -/
def Obligations.CounterWrite : Prop :=
  ∀ (s : State) (ch : Ch) (d : Word),
    WriteWordOf (.wCnt ch d) ch 0x01#6 d ∧
    cntWrite .direct ch d s = afterWrite s ch .cnt d { s.chan ch with cnt := d.extractLsb' 0 16 } [] [] ∧
    cntWrite .loadCntin ch d s = afterWrite s ch .cnt d { s.chan ch with cnt := (s.chan ch).cntin } [] [] ∧
    exec (.wCnt ch d) s = .next (afterWrite s ch .cnt d { s.chan ch with cnt := d.extractLsb' 0 16 } [] [])

/-- R218 (the source's P2; the spec marks it [derived]): `RESET ch, v` and then `READ ch` gives `v`, for every signed
16-bit `v`, from any state. -/
def Obligations.ResetThenReadGivesValue : Prop :=
  ∀ (s : State) (ch : Ch) (v : Int), -32768 ≤ v → v ≤ 32767 →
    ∃ r, (execNext (readOp ch) (execNext (resetOp ch v) s)).results = s.results ++ [r] ∧ readValue r = v

/-- R217 (the source's P1; the spec marks it [derived]): two reads of CNT with operations and ticks between them
return the same word, where none of these leaves the counter of `ch` changed. -/
def Obligations.RepeatedReadsAgree : Prop :=
  ∀ (s : State) (ch : Ch) (acts : List Act),
    let s1 := execNext (readOp ch) s
    ((runActs acts s1).chan ch).cnt = (s1.chan ch).cnt →
    ∃ r, s1.results = s.results ++ [r] ∧
      (execNext (readOp ch) (runActs acts s1)).results = (runActs acts s1).results ++ [r]

/-! ## The tick -/

/-- R187, last paragraph: a tick changes no field of its instance but CNT and the hidden state. -/
def Obligations.TickChangesOnlyCounterAndHiddenState : Prop :=
  ∀ (prm : Params) (ch : Ch) (la lb : Level) (c : Channel),
    let t := tickChannel prm ch la lb c
    t = { c with cnt := t.cnt, foutA := t.foutA, foutB := t.foutB, fcntA := t.fcntA, fcntB := t.fcntB,
                 latch := t.latch, draws := t.draws } ∧ c.draws ≤ t.draws

/-- R184: the pulse filter of one phase, with the register fields it reads, and that every tick, whether or not decode is
Active, runs it on phase A's sample and then on phase B's. In the acceptance band the next free value decides. Phase A
reads CH0FVAL and PHAFLTREN, phase B CH1FVAL and PHBFLTREN; each has its own output and count. -/
def Obligations.PulseFilter : Prop :=
  (∀ (prm : Params) (ch : Ch) (p : Phase) (x : Bit) (c : Channel),
    let value : BitVec 4 := if p = .a then c.filter.ch0fval else c.filter.ch1fval
    let enable : Bit := if p = .a then c.qdctrl.phafltren else c.qdctrl.phbfltren
    let out : Bit := if p = .a then c.foutA else c.foutB
    let left := fun (d : Channel) (fout : Bit) (fcnt : Nat) =>
      if p = .a then { d with foutA := fout, fcntA := fcnt } else { d with foutB := fout, fcntB := fcnt }
    let n := (if p = .a then c.fcntA else c.fcntB) + 1
    let thr := prm.filterScale * value.toNat
    let on := enable = 1#1 ∧ value ≠ 0#4
    let spent : Channel := { c with draws := c.draws + 1 }
    (¬ on → filterPhase prm ch p x c = left c x 0) ∧
    (on → x = out → filterPhase prm ch p x c = left c out 0) ∧
    (on → x ≠ out → thr + prm.filterSlack ≤ n → filterPhase prm ch p x c = left c x 0) ∧
    (on → x ≠ out → thr ≤ n → n < thr + prm.filterSlack → filterPhase prm ch p x c =
      if Config.freeValue 1 ch c.draws = 1#1 then left spent x 0 else left spent out n) ∧
    (on → x ≠ out → n < thr → filterPhase prm ch p x c = left c out n)) ∧
  (∀ (prm : Params) (ch : Ch) (la lb : Level) (c : Channel),
    let a := decIn prm ch .a la c
    let b := decIn prm ch .b lb a.2
    let f := filterPhase prm ch .b b.1 (filterPhase prm ch .a a.1 b.2)
    let t := tickChannel prm ch la lb c
    t.foutA = f.foutA ∧ t.foutB = f.foutB ∧ t.fcntA = f.fcntA ∧ t.fcntB = f.fcntB)

/-- R185: the QD table, from the forward cycle: one place on counts +1, one place back −1, two places are ILL. -/
def Obligations.DecoderTable : Prop :=
  ∀ prev next : BitVec 2,
    qd prev next =
      if cyclePlace next = cyclePlace prev then .zero
      else if cyclePlace next = (cyclePlace prev + 1) % 4 then .up
      else if cyclePlace prev = (cyclePlace next + 1) % 4 then .down
      else .ill

/-- R185, R36: after every tick the latch holds the pair `a ‖ b` of the filter outputs under the polarities, whatever
the mode; and the first tick after reset (`latch = none`) counts nothing where decoding is Active and Exact. -/
def Obligations.LatchFollowsThePair : Prop :=
  ∀ (prm : Params) (ch : Ch) (la lb : Level) (c : Channel),
    let t := tickChannel prm ch la lb c
    t.latch = some ((t.foutA ^^^ c.qdctrl.phapol) ++ (t.foutB ^^^ c.qdctrl.phbpol)) ∧
    (c.latch = none → c.active = true → c.exact = true → t.cnt = c.cnt)

/-- R186: the counter update, branch by branch. -/
def Obligations.CounterUpdate : Prop :=
  ∀ (ch : Ch) (c : Channel),
    let free := c.cntin = 0x0000#16 ∧ c.mod = 0xFFFF#16
    let within := c.cntin.toNat ≤ c.cnt.toNat ∧ c.cnt.toNat ≤ c.mod.toNat
    count ch .zero c = c ∧
    FreshCount ch c (count ch .ill c) ∧
    (free → count ch .up c = { c with cnt := c.cnt + 1#16 } ∧ count ch .down c = { c with cnt := c.cnt - 1#16 }) ∧
    (¬ free → within → count ch .up c = { c with cnt := if c.cnt = c.mod then c.cntin else c.cnt + 1#16 } ∧
      count ch .down c = { c with cnt := if c.cnt = c.cntin then c.mod else c.cnt - 1#16 }) ∧
    (¬ free → ¬ within → FreshCount ch c (count ch .up c) ∧ FreshCount ch c (count ch .down c))

/-- R180, R181, R182: when a tick counts, when it holds the counter, and when it leaves a free value in it. -/
def Obligations.CounterModeOfATick : Prop :=
  ∀ (prm : Params) (ch : Ch) (la lb : Level) (c : Channel),
    let t := tickChannel prm ch la lb c
    let active := c.qdctrl.quaden = 1#1 ∧ c.mode.ftmen = 1#1
    let exact := c.qdctrl.quadmode = 0#1 ∧ c.sc.cpwms = 0#1 ∧ c.sc.clks = 0#2 ∧ c.sc.ps = 0#3 ∧
      c.mode.faultm = 0#2 ∧ c.mode.captest = 0#1
    (active → exact → ∃ d : Channel, d.cnt = c.cnt ∧ d.cntin = c.cntin ∧ d.mod = c.mod ∧
      t = count ch (match c.latch, t.latch with
        | some prev, some next => qd prev next
        | _, _ => .zero) d) ∧
    (active → ¬ exact → FreshCount ch c t) ∧
    (c.qdctrl.quaden = 0#1 → c.sc.clks = 0#2 → t.cnt = c.cnt) ∧
    (¬ active → ¬ (c.qdctrl.quaden = 0#1 ∧ c.sc.clks = 0#2) → FreshCount ch c t)

/-- R188, R189 (the spec marks them [derived]): in the configured state a tick whose filtered pair makes a forward
change adds one to the counter modulo 65536, a reverse change takes one away, and no change leaves it. -/
def Obligations.ConfiguredTickCounts : Prop :=
  ∀ (prm : Params) (ch : Ch) (la lb : Level) (c : Channel) (prev : BitVec 2), Configured prm ch c →
    c.latch = some prev →
    let t := tickChannel prm ch la lb c
    (qd prev t.pair = .up → t.cnt = c.cnt + 1#16) ∧ (qd prev t.pair = .down → t.cnt = c.cnt - 1#16) ∧
    (qd prev t.pair = .zero → t.cnt = c.cnt)

/-- R189 (the spec marks it [derived]): both readings of the source's wraparound, at the counter and in the signed
view: `t` is a tick of a configured instance with a forward, or a reverse, change. -/
def Obligations.WraparoundBothReadings : Prop :=
  ∀ (prm : Params) (ch : Ch) (la lb : Level) (c : Channel) (prev : BitVec 2), Configured prm ch c →
    c.latch = some prev →
    let t := tickChannel prm ch la lb c
    (qd prev t.pair = .up → (c.cnt = 0xFFFF#16 → t.cnt = 0x0000#16) ∧
      (sint16 c.cnt = 32767 → sint16 t.cnt = -32768) ∧ (sint16 c.cnt ≠ 32767 → sint16 t.cnt = sint16 c.cnt + 1)) ∧
    (qd prev t.pair = .down → (c.cnt = 0x0000#16 → t.cnt = 0xFFFF#16) ∧
      (sint16 c.cnt = -32768 → sint16 t.cnt = 32767) ∧ (sint16 c.cnt ≠ -32768 → sint16 t.cnt = sint16 c.cnt - 1))

/-- R190 (the spec marks it [derived]): in the configured state a raw pulse on one phase that returns to its level after
fewer than `T` ticks leaves the filter output and the counter as they were. -/
def Obligations.ShortPulsesAreRejected : Prop :=
  ∀ (prm : Params) (ch : Ch) (c : Channel) (k : Nat), Configured prm ch c → c.fcntA = 0 → c.fcntB = 0 →
    c.latch = some c.pair → k < prm.filterScale * prm.fvalInit.toNat →
    let a := levelOf c.foutA
    let b := levelOf c.foutB
    let tA := runTicks prm ch (List.replicate k (levelOf (~~~c.foutA), b) ++ [(a, b)]) c
    let tB := runTicks prm ch (List.replicate k (a, levelOf (~~~c.foutB)) ++ [(a, b)]) c
    tA = c ∧ tB = c

/-- R191, first sentence (the spec marks it [derived]): with `FILTER_SLACK = 0`, a change of either phase that is held is
not counted on its first `T − 1` ticks, is counted by one on its `T`-th, and is not counted again however long it is
held. -/
def Obligations.HeldLevelCountsAtThreshold : Prop :=
  ∀ (prm : Params) (ch : Ch) (c : Channel) (p : Phase), Configured prm ch c → c.fcntA = 0 → c.fcntB = 0 →
    c.latch = some c.pair → prm.filterSlack = 0 → prm.fvalInit ≠ 0#4 → 0 < prm.filterScale →
    let thr := prm.filterScale * prm.fvalInit.toNat
    let levels := if p = .a then (levelOf (~~~c.foutA), levelOf c.foutB) else (levelOf c.foutA, levelOf (~~~c.foutB))
    let held := fun k => runTicks prm ch (List.replicate k levels) c
    (∀ k, k < thr → (held k).cnt = c.cnt ∧ (held k).foutA = c.foutA ∧ (held k).foutB = c.foutB) ∧
    (∀ k, thr ≤ k → (held k).cnt = (held thr).cnt ∧
      (held k).foutA = (if p = .a then ~~~c.foutA else c.foutA) ∧
      (held k).foutB = (if p = .a then c.foutB else ~~~c.foutB)) ∧
    ((qd c.pair (held thr).pair = .up ∧ (held thr).cnt = c.cnt + 1#16) ∨
      (qd c.pair (held thr).pair = .down ∧ (held thr).cnt = c.cnt - 1#16))

/-- R88, R185: the transitions of FWD go from each raw pair to the next state of the forward cycle, which counts +1, and
those of REV to the state before, which counts −1; each changes one pin. From the script's current levels a directive of
`k + 1` transitions drives the levels of the next pair for `h` ticks and goes on from them; a pin that does not change is
left as it is driven. Each directive of a script starts from the levels that the lines before it have left: a script splits
at every line, its second part starting from the levels after the first. Those are, for each instance, the levels of its
last tick so far, or the levels before the script where it had none; a transition that is held for no tick at all moves
them too, and is left out of that clause (log 25). -/
def Obligations.DirectivesFollowTheCycle : Prop :=
  (∀ x : Bit × Bit,
    qd (x.1 ++ x.2) ((grayNext x).1 ++ (grayNext x).2) = .up ∧
    qd (x.1 ++ x.2) ((grayPrev x).1 ++ (grayPrev x).2) = .down ∧
    ((grayNext x).1 = x.1 ↔ (grayNext x).2 ≠ x.2) ∧ ((grayPrev x).1 = x.1 ↔ (grayPrev x).2 ≠ x.2)) ∧
  (∀ (prm : Params) (pull : Ch → Phase → Bit) (e : ScriptLevels) (ch : Ch) (k h : Nat),
    let x := levelsAt e ch
    let f := turnOnce grayNext (pull ch) x
    let r := turnOnce grayPrev (pull ch) x
    rawPair (pull ch) f = grayNext (rawPair (pull ch) x) ∧ (f.1 = x.1 ∨ f.2 = x.2) ∧
    rawPair (pull ch) r = grayPrev (rawPair (pull ch) x) ∧ (r.1 = x.1 ∨ r.2 = x.2) ∧
    lineMoves prm pull e (.fwd ch 0 h) = [] ∧ lineMoves prm pull e (.rev ch 0 h) = [] ∧
    lineMoves prm pull e (.fwd ch (k + 1) h) =
      List.replicate h (.tick ch f.1 f.2) ++ lineMoves prm pull (setLevels e ch f) (.fwd ch k h) ∧
    lineMoves prm pull e (.rev ch (k + 1) h) =
      List.replicate h (.tick ch r.1 r.2) ++ lineMoves prm pull (setLevels e ch r) (.rev ch k h)) ∧
  (∀ (prm : Params) (pull : Ch → Phase → Bit) (e : ScriptLevels) (ls : List Line),
    (∀ ms, scriptOf prm pull e (ls ++ ms) = scriptOf prm pull e ls ++ scriptOf prm pull (levelsAfter pull e ls) ms) ∧
    ((∀ ch k, .fwd ch k 0 ∉ ls ∧ .rev ch k 0 ∉ ls) →
      ∀ ch, levelsAt (levelsAfter pull e ls) ch = (tickLevels ch (scriptOf prm pull e ls)).getLast?.getD (levelsAt e ch)))

/-! ## Independence of the instances -/

/-- R71, R192, R261: any interleaving of operations and ticks of the two instances gives each instance the state it
would have had with its own alone. -/
def Obligations.InstancesAreIndependent : Prop :=
  ∀ (ch : Ch) (acts : List Act) (s : State), (runActs acts s).chan ch = (runActs (actsOn ch acts) s).chan ch

/-! ## Initialization -/

/-- R234 (the spec marks it [derived]): from any state, under any interleaving of ticks and of the other instance's
operations, the sixteen writes of INIT reach the configured state. Where the other instance's operations are left out,
nothing is refused, no `LockedWrite` is recorded and `pc` goes on by sixteen. -/
def Obligations.InitReachesConfigured : Prop :=
  ∀ (ch : Ch) (acts : List Act) (s : State), opsOn ch acts = initOps Config.params ch →
    Configured Config.params ch ((runActs acts s).chan ch) ∧
    ((∀ i, Act.op i ∈ acts → i.channel = ch) →
      (runActs acts s).refusals = s.refusals ∧ (runActs acts s).pc = s.pc + 16 ∧
      ∃ es, (runActs acts s).hist = s.hist ++ es ∧ es.length = 16 ∧ ∀ e ∈ es, e.isLockedWrite = false)

/-- R234, last item, at rest (the spec marks it [derived]): the counter of an instance is 0 right after INIT where no
tick of it follows write 14. -/
def Obligations.InitZeroesCounter : Prop :=
  ∀ (ch : Ch) (acts : List Act) (s : State), opsOn ch acts = initOps Config.params ch →
    actLevels ch (afterOps ch 14 acts) = [] → ((runActs acts s).chan ch).cnt = 0#16

/-- R235 (the spec marks it [derived]): the configured state stays, whatever operations and ticks follow, but for an
unlock write or a pin-control write with a value other than PCR_INIT. -/
def Obligations.ConfiguredIsKept : Prop :=
  ∀ (ch : Ch) (acts : List Act) (s : State), Configured Config.params ch (s.chan ch) →
    (∀ i, Act.op i ∈ acts → unlocks ch i = false ∧ rewritesPins Config.params ch i = false) →
    Configured Config.params ch ((runActs acts s).chan ch)

/-- R238, first item (the spec marks it [derived]): INIT without its two MODE writes, from Locked, changes no protected
field and records ten `LockedWrite` events; write 14 still applies. -/
def Obligations.SkippedHandshakeIsIgnored : Prop :=
  ∀ (ch : Ch) (s : State), Locked (s.chan ch) →
    let ops := (initOps Config.params ch).take 2 ++ (initOps Config.params ch).drop 4
    let t := runActs (ops.map .op) s
    Locked (t.chan ch) ∧ sameProtected (s.chan ch) (t.chan ch) ∧ (t.chan ch).cnt = 0#16 ∧
      (t.hist.filter Event.isLockedWrite).length = (s.hist.filter Event.isLockedWrite).length + 10

/-- R230: the words of INIT on channel 0 and channel 1, with the reference parameters. -/
def Obligations.InitWordsOfReference : Prop :=
  initWords Params.reference .ch0 =
    [0xBE00000712#40, 0xBF00000712#40, 0x9500000004#40, 0x9500000005#40, 0xA000000000#40, 0x8000000000#40,
     0x8300000000#40, 0x8400000000#40, 0x8500000000#40, 0x8600000000#40, 0x9E00000022#40, 0x9300000000#40,
     0x820000FFFF#40, 0x8100000000#40, 0xA0000000C1#40, 0x9D00000040#40] ∧
  initWords Params.reference .ch1 =
    [0xFE00000612#40, 0xFF00000612#40, 0xD500000004#40, 0xD500000005#40, 0xE000000000#40, 0xC000000000#40,
     0xC300000000#40, 0xC400000000#40, 0xC500000000#40, 0xC600000000#40, 0xDE00000022#40, 0xD300000000#40,
     0xC20000FFFF#40, 0xC100000000#40, 0xE0000000C1#40, 0xDD00000040#40]

/-! ## Reset and launch -/

/-- R42: the state after reset has, in each instance, every power-on value of the table, written out here; it is a power-on
launch and satisfies the launch premise of R41. The fields R42 leaves unspecified are not part of it. WPDIS reads 1: the
word that R.MODE returns is 0x4 apart from its RD bit. -/
def Obligations.ResetIsPowerOnLaunch : Prop :=
  (∀ ch : Ch,
    let c := State.reset.chan ch
    c.cnt = 0x0000#16 ∧ c.mod = 0x0000#16 ∧ c.cntin = 0x0000#16 ∧ c.c0v = 0x0000#16 ∧ c.c1v = 0x0000#16 ∧
    (c.sc.toie = 0#1 ∧ c.sc.cpwms = 0#1 ∧ c.sc.clks = 0#2 ∧ c.sc.ps = 0#3) ∧
    (c.c0sc.chie = 0#1 ∧ c.c0sc.msb = 0#1 ∧ c.c0sc.msa = 0#1 ∧ c.c0sc.elsb = 0#1 ∧ c.c0sc.elsa = 0#1 ∧
      c.c0sc.dma = 0#1) ∧
    (c.c1sc.chie = 0#1 ∧ c.c1sc.msb = 0#1 ∧ c.c1sc.msa = 0#1 ∧ c.c1sc.elsb = 0#1 ∧ c.c1sc.elsa = 0#1 ∧
      c.c1sc.dma = 0#1) ∧
    (c.mode.ftmen = 0#1 ∧ c.mode.faultie = 0#1 ∧ c.mode.faultm = 0#2 ∧ c.mode.captest = 0#1 ∧ c.mode.pwmsync = 0#1) ∧
    (∃ init : Bit, (execNext (.rMode ch) State.reset).results = [0#29 ++ 1#1 ++ init ++ 0#1]) ∧ c.wpen = 0#1 ∧
    (c.filter.ch1fval = 0#4 ∧ c.filter.ch0fval = 0#4) ∧
    (c.qdctrl.phafltren = 0#1 ∧ c.qdctrl.phbfltren = 0#1 ∧ c.qdctrl.phapol = 0#1 ∧ c.qdctrl.phbpol = 0#1 ∧
      c.qdctrl.quadmode = 0#1 ∧ c.qdctrl.quaden = 0#1) ∧
    (c.pcrA.mux = 0#3 ∧ c.pcrA.irqc = 0#4 ∧ c.pcrA.lk = 0#1) ∧
    (c.pcrB.mux = 0#3 ∧ c.pcrB.irqc = 0#4 ∧ c.pcrB.lk = 0#1) ∧
    c.fcntA = 0 ∧ c.fcntB = 0 ∧ c.latch = none) ∧
  State.reset.pc = 0 ∧ State.reset.refused = false ∧ State.reset.hist = [] ∧
  powerOnLaunch State.reset = true ∧ launchPremise State.reset = true

/-- R272 (the spec marks it [derived]): from any power-on launch an instance holds its counter at 0, whatever its pins
do, until a host operation. -/
def Obligations.PowerOnCounterHeld : Prop :=
  ∀ (s : State) (ch : Ch) (ls : List (Level × Level)), powerOnLaunch s = true →
    (runTicks Config.params ch ls (s.chan ch)).cnt = 0#16

/-- R41: a launch state that breaks the launch premise is refused `LaunchOutOfScope`, and one that meets it is the run's
first state. That the premise asks nothing of `pc` is the model's choice (log 26). -/
def Obligations.LaunchOutOfPremiseIsRefused : Prop :=
  ∀ s : State,
    let premise := (∀ ch, (s.chan ch).sc.toie = 0#1 ∧ (s.chan ch).c0sc.chie = 0#1 ∧ (s.chan ch).c1sc.chie = 0#1 ∧
      (s.chan ch).mode.faultie = 0#1 ∧ (s.chan ch).pcrA.irqc = 0#4 ∧ (s.chan ch).pcrA.lk = 0#1 ∧
      (s.chan ch).pcrB.irqc = 0#4 ∧ (s.chan ch).pcrB.lk = 0#1) ∧ s.refusals = [] ∧ s.hist = []
    (premise → launch s = s) ∧
    (¬ premise → launch s = { s with refusals := s.refusals ++ [.launchOutOfScope] })

/-! ## Invariants of every step -/

/-- R254: no step turns an interrupt enable, a pin interrupt or a pin lock on without refusing. -/
def Obligations.StepKeepsEnablesOff : Prop :=
  ∀ s t : State, EnablesOffUnlessRefused s → step s = .next t → EnablesOffUnlessRefused t

/-- The invariant of `StepKeepsEnablesOff` holds after reset. -/
def Obligations.ResetHasEnablesOff : Prop := EnablesOffUnlessRefused State.reset

/-- R184: no step takes a filter count to the largest acceptance threshold. -/
def Obligations.StepKeepsFilterCountsBounded : Prop :=
  ∀ s t : State, (∀ ch, FilterCountsBounded Config.params (s.chan ch)) → step s = .next t →
    ∀ ch, FilterCountsBounded Config.params (t.chan ch)

/-- The invariant of `StepKeepsFilterCountsBounded` holds after reset. -/
def Obligations.ResetHasFilterCountsBounded : Prop :=
  ∀ ch, FilterCountsBounded Config.params (State.reset.chan ch)

/-- R39, R22, R80: nothing clears the refusal mark; the history and the returned words only grow; `pc` stays or goes on
by one; the program never changes. -/
def Obligations.StepOnlyAppends : Prop :=
  ∀ s t : State, step s = .next t →
    (∃ rs, t.refusals = s.refusals ++ rs) ∧ (∃ es, t.hist = s.hist ++ es) ∧ (∃ ws, t.results = s.results ++ ws) ∧
    (t.pc = s.pc ∨ t.pc = s.pc + 1) ∧ t.program = s.program ∧ (s.refused = true → t.refused = true)

/-- R22: the host's index stays within the program. -/
def Obligations.StepKeepsIndexInProgram : Prop :=
  ∀ s t : State, s.pc ≤ s.program.length → step s = .next t → t.pc ≤ t.program.length

/-! ## The bus -/

/-- R65 (the spec marks it [derived]): a write repeated at once leaves both instances as one such write did. It says so
for every form on which R120 and R125 do not give the repeated write another effect (log 18): W.PCR_A, W.PCR_B, W.CNT and
W.FMS in every state; W.MODE where its instance is not Locked or `d[2] = 0`; and every other write where its instance is
Locked or Open. -/
def Obligations.RepeatedWriteChangesNothing : Prop :=
  ∀ (i : Instr) (s : State) (x : Ch), i.fields.w = 1#1 →
    ((∃ ch d, i = .wPcrA ch d ∨ i = .wPcrB ch d ∨ i = .wCnt ch d ∨ i = .wFms ch d) ∨
      (∃ ch d, i = .wMode ch d ∧ (¬ Locked (s.chan ch) ∨ d.extractLsb' 2 1 = 0#1)) ∨
      ((∀ ch d, i ≠ .wMode ch d) ∧ (Locked (s.chan i.channel) ∨ Opened (s.chan i.channel)))) →
    (execNext i (execNext i s)).chan x = (execNext i s).chan x

/-- R61: the address of a register, whatever the OPEN base addresses are. -/
def Obligations.BusAddressOfRegister : Prop :=
  ∀ (m : BusMap) (ch : Ch) (r : Reg),
    busAddr m ch r = if r = .pcrA then m.pcrAddr ch .a else if r = .pcrB then m.pcrAddr ch .b
      else m.baseT ch + 4#32 * r.sel.setWidth 32

/-- R63: with distinct word-aligned addresses, an aligned 32-bit access at a register's address is that
register's operation; every other access is refused `ReservedEncoding`, changes nothing else and advances `pc`. -/
def Obligations.BusAccessIsOperation : Prop :=
  ∀ (m : BusMap) (s : State), busMapSound m = true →
    (∀ (ch : Ch) (r : Reg) (d : Word),
      busStep m ⟨busAddr m ch r, 4, .read, d⟩ s = exec (readInstr r ch) s ∧
      busStep m ⟨busAddr m ch r, 4, .write, d⟩ s = exec (writeInstr r ch d) s) ∧
    (∀ x : BusAccess, (x.bytes ≠ 4 ∨ ∀ ch r, busAddr m ch r ≠ x.addr) →
      busStep m x s = .next { s with refusals := s.refusals ++ [.reservedEncoding], pc := s.pc + 1 })

/-! ## A well-formed environment -/

/-- R283 (the spec marks it [derived]): an environment that meets `WellFormedEnv` is counted exactly. From a configured
instance whose filters have settled on the levels `rest`, no transition of the raw pairs is illegal, after the script's
ticks the counter has gone on by their net count (modulo 65536), and the filters have settled on the last levels. How the
premise reads the first level, the last one and an undriven pin is the model's (logs 17, 22). -/
def Obligations.WellFormedEnvIsCountedExactly : Prop :=
  ∀ (prm : Params) (ch : Ch) (c : Channel) (rest : Level × Level) (script : List Move),
    Configured prm ch c → Settled c rest → prm.fvalInit ≠ 0#4 → 0 < prm.filterScale →
    wellFormedEnv prm ch rest script = true →
    let ls := tickLevels ch script
    let t := runTicks prm ch ls c
    (∃ v, netCount ((rest :: ls).map (envPair prm)) = some v ∧ t.cnt = c.cnt + v) ∧
    Settled t (ls.getLast?.getD rest)
end

