-- ==== Sys2Proof/Laws/Decode.lean ====
section
/-! SUPPORT. Small lemmas of the decoder and the encoder. -/

namespace Sys2Proof

/-- The selector of a register names that register. -/
@[simp] theorem Reg.ofSel_sel (r : Reg) : Reg.ofSel r.sel = some r := by cases r <;> decide

/-- A selector that names a register is that register's. -/
theorem Reg.sel_of_ofSel {x : BitVec 6} {r : Reg} (h : Reg.ofSel x = some r) : r.sel = x := by
  have := List.find?_some h
  simpa using this

/-- The assigned selectors are those of the registers (R82). -/
theorem Reg.ofSel_isSome_iff (x : BitVec 6) : (Reg.ofSel x).isSome = true ↔ x ∈ assignedSelectors := by
  revert x; decide

@[simp] theorem Ch.ofBit_bit (ch : Ch) : Ch.ofBit ch.bit = ch := by cases ch <;> rfl

/-- The instance field read back. -/
theorem Ch.bit_ofBit (b : Bit) : (Ch.ofBit b).bit = b := by revert b; decide

/-- The fields of an assembled word are the fields it was made of (R81). -/
@[simp] theorem fieldsOfWord_wordOfFields (f : Fields) : fieldsOfWord (wordOfFields f) = f := by
  obtain ⟨w, ch, sel, data⟩ := f
  simp only [fieldsOfWord, wordOfFields, Fields.mk.injEq]
  refine ⟨?_, ?_, ?_, ?_⟩ <;> ext i hi <;> simp <;> grind

/-- A word is made of its fields (R81). -/
@[simp] theorem wordOfFields_fieldsOfWord (t : TWord) : wordOfFields (fieldsOfWord t) = t := by
  have h : ∀ i, (wordOfFields (fieldsOfWord t)).getLsbD i = t.getLsbD i := by
    intro i
    have hi := fun h : 40 ≤ i => BitVec.getLsbD_of_ge t i h
    change (t.extractLsb' 39 1 ++ t.extractLsb' 38 1 ++ t.extractLsb' 32 6 ++ t.extractLsb' 0 32).getLsbD i = _
    simp only [BitVec.getLsbD_append, BitVec.getLsbD_extractLsb']
    grind
  exact BitVec.eq_of_getLsbD_eq fun i _ => h i

/-- The fields of a read operation. -/
@[simp] theorem fields_readInstr (r : Reg) (ch : Ch) : (readInstr r ch).fields = readFields r ch := by
  cases r <;> rfl

/-- The fields of a write operation. -/
@[simp] theorem fields_writeInstr (r : Reg) (ch : Ch) (d : Word) : (writeInstr r ch d).fields = writeFields r ch d := by
  cases r <;> rfl

/-- The fields of every operation are well formed (R84). -/
theorem Instr.fields_wellFormed (i : Instr) : i.fields.wellFormed = true := by
  cases i <;> simp [Instr.fields, readFields, writeFields, Fields.wellFormed, Fields.selAssigned, Fields.readDataZero,
    assignedSelectors, Reg.sel]

/-- A word made of fields decodes as its fields do. -/
theorem decode_wordOfFields (f : Fields) : decode (wordOfFields f) = decodeFields f := by
  rw [decode, fieldsOfWord_wordOfFields]

end Sys2Proof
end

