-- ==== Sys2Proof/Laws/State.lean ====
section
/-! SUPPORT. The small lemmas of the state: one per field per update, so that no later proof unfolds an update. -/

namespace Sys2Proof.Machine

/-- The two instances are different. -/
theorem Ch.eq_or (ch ch' : Ch) : ch' = ch ∨ ch' ≠ ch := by cases ch <;> cases ch' <;> simp

@[simp] theorem State.chan_ch0 (s : State) : s.chan .ch0 = s.ch0 := rfl
@[simp] theorem State.chan_ch1 (s : State) : s.chan .ch1 = s.ch1 := rfl

/-! `setChan` -/

@[simp] theorem State.chan_setChan_same (s : State) (ch : Ch) (c : Channel) : (s.setChan ch c).chan ch = c := by
  cases ch <;> rfl

theorem State.chan_setChan_other (s : State) {ch ch' : Ch} (c : Channel) (h : ch' ≠ ch) :
    (s.setChan ch c).chan ch' = s.chan ch' := by
  cases ch <;> cases ch' <;> first | rfl | exact absurd rfl h

@[simp] theorem State.setChan_setChan (s : State) (ch : Ch) (c d : Channel) :
    (s.setChan ch c).setChan ch d = s.setChan ch d := by cases ch <;> rfl
@[simp] theorem State.setChan_chan (s : State) (ch : Ch) : s.setChan ch (s.chan ch) = s := by cases ch <;> rfl
@[simp] theorem State.setChan_pc (s : State) (ch : Ch) (c : Channel) : (s.setChan ch c).pc = s.pc := by cases ch <;> rfl
@[simp] theorem State.setChan_refusals (s : State) (ch : Ch) (c : Channel) :
    (s.setChan ch c).refusals = s.refusals := by cases ch <;> rfl
@[simp] theorem State.setChan_hist (s : State) (ch : Ch) (c : Channel) :
    (s.setChan ch c).hist = s.hist := by cases ch <;> rfl
@[simp] theorem State.setChan_results (s : State) (ch : Ch) (c : Channel) :
    (s.setChan ch c).results = s.results := by cases ch <;> rfl
@[simp] theorem State.setChan_program (s : State) (ch : Ch) (c : Channel) :
    (s.setChan ch c).program = s.program := by cases ch <;> rfl
@[simp] theorem State.setChan_script (s : State) (ch : Ch) (c : Channel) :
    (s.setChan ch c).script = s.script := by cases ch <;> rfl

/-! `record` -/

@[simp] theorem record_chan (e : Event) (s : State) (ch : Ch) : (record e s).chan ch = s.chan ch := by cases ch <;> rfl
@[simp] theorem record_pc (e : Event) (s : State) : (record e s).pc = s.pc := rfl
@[simp] theorem record_refusals (e : Event) (s : State) : (record e s).refusals = s.refusals := rfl
@[simp] theorem record_hist (e : Event) (s : State) : (record e s).hist = s.hist ++ [e] := rfl
@[simp] theorem record_results (e : Event) (s : State) : (record e s).results = s.results := rfl
@[simp] theorem record_program (e : Event) (s : State) : (record e s).program = s.program := rfl
@[simp] theorem record_script (e : Event) (s : State) : (record e s).script = s.script := rfl

/-! `refuse` -/

@[simp] theorem refuse_chan (r : RefuseReason) (s : State) (ch : Ch) : (refuse r s).chan ch = s.chan ch := by
  cases ch <;> rfl
@[simp] theorem refuse_pc (r : RefuseReason) (s : State) : (refuse r s).pc = s.pc := rfl
@[simp] theorem refuse_refusals (r : RefuseReason) (s : State) : (refuse r s).refusals = s.refusals ++ [r] := rfl
@[simp] theorem refuse_hist (r : RefuseReason) (s : State) : (refuse r s).hist = s.hist := rfl
@[simp] theorem refuse_results (r : RefuseReason) (s : State) : (refuse r s).results = s.results := rfl
@[simp] theorem refuse_program (r : RefuseReason) (s : State) : (refuse r s).program = s.program := rfl
@[simp] theorem refuse_script (r : RefuseReason) (s : State) : (refuse r s).script = s.script := rfl

/-! `refuseIf` -/

@[simp] theorem refuseIf_true (r : RefuseReason) (s : State) : refuseIf true r s = refuse r s := rfl
@[simp] theorem refuseIf_false (r : RefuseReason) (s : State) : refuseIf false r s = s := rfl
@[simp] theorem refuseIf_chan (b : Bool) (r : RefuseReason) (s : State) (ch : Ch) :
    (refuseIf b r s).chan ch = s.chan ch := by cases b <;> simp
@[simp] theorem refuseIf_pc (b : Bool) (r : RefuseReason) (s : State) : (refuseIf b r s).pc = s.pc := by cases b <;> rfl
@[simp] theorem refuseIf_refusals (b : Bool) (r : RefuseReason) (s : State) :
    (refuseIf b r s).refusals = s.refusals ++ (if b then [r] else []) := by cases b <;> simp
@[simp] theorem refuseIf_hist (b : Bool) (r : RefuseReason) (s : State) : (refuseIf b r s).hist = s.hist := by
  cases b <;> rfl
@[simp] theorem refuseIf_results (b : Bool) (r : RefuseReason) (s : State) : (refuseIf b r s).results = s.results := by
  cases b <;> rfl
@[simp] theorem refuseIf_program (b : Bool) (r : RefuseReason) (s : State) : (refuseIf b r s).program = s.program := by
  cases b <;> rfl
@[simp] theorem refuseIf_script (b : Bool) (r : RefuseReason) (s : State) : (refuseIf b r s).script = s.script := by
  cases b <;> rfl

/-! `advance` and `returnWord` -/

@[simp] theorem advance_chan (s : State) (ch : Ch) : (advance s).chan ch = s.chan ch := by cases ch <;> rfl
@[simp] theorem advance_pc (s : State) : (advance s).pc = s.pc + 1 := rfl
@[simp] theorem advance_refusals (s : State) : (advance s).refusals = s.refusals := rfl
@[simp] theorem advance_hist (s : State) : (advance s).hist = s.hist := rfl
@[simp] theorem advance_results (s : State) : (advance s).results = s.results := rfl
@[simp] theorem advance_program (s : State) : (advance s).program = s.program := rfl
@[simp] theorem advance_script (s : State) : (advance s).script = s.script := rfl
@[simp] theorem returnWord_chan (r : Word) (s : State) (ch : Ch) : (returnWord r s).chan ch = s.chan ch := by
  cases ch <;> rfl
@[simp] theorem returnWord_pc (r : Word) (s : State) : (returnWord r s).pc = s.pc := rfl
@[simp] theorem returnWord_refusals (r : Word) (s : State) : (returnWord r s).refusals = s.refusals := rfl
@[simp] theorem returnWord_hist (r : Word) (s : State) : (returnWord r s).hist = s.hist := rfl
@[simp] theorem returnWord_results (r : Word) (s : State) : (returnWord r s).results = s.results ++ [r] := rfl
@[simp] theorem returnWord_program (r : Word) (s : State) : (returnWord r s).program = s.program := rfl
@[simp] theorem returnWord_script (r : Word) (s : State) : (returnWord r s).script = s.script := rfl

/-! The fields of an instance that a draw or a filter update leaves alone. -/

@[simp] theorem Channel.spend_draws (c : Channel) (k : Nat) : (c.spend k).draws = c.draws + k := rfl
@[simp] theorem Channel.spend_sc (c : Channel) (k : Nat) : (c.spend k).sc = c.sc := rfl
@[simp] theorem Channel.spend_cnt (c : Channel) (k : Nat) : (c.spend k).cnt = c.cnt := rfl
@[simp] theorem Channel.spend_mod (c : Channel) (k : Nat) : (c.spend k).mod = c.mod := rfl
@[simp] theorem Channel.spend_c0sc (c : Channel) (k : Nat) : (c.spend k).c0sc = c.c0sc := rfl
@[simp] theorem Channel.spend_c0v (c : Channel) (k : Nat) : (c.spend k).c0v = c.c0v := rfl
@[simp] theorem Channel.spend_c1sc (c : Channel) (k : Nat) : (c.spend k).c1sc = c.c1sc := rfl
@[simp] theorem Channel.spend_c1v (c : Channel) (k : Nat) : (c.spend k).c1v = c.c1v := rfl
@[simp] theorem Channel.spend_cntin (c : Channel) (k : Nat) : (c.spend k).cntin = c.cntin := rfl
@[simp] theorem Channel.spend_mode (c : Channel) (k : Nat) : (c.spend k).mode = c.mode := rfl
@[simp] theorem Channel.spend_wpen (c : Channel) (k : Nat) : (c.spend k).wpen = c.wpen := rfl
@[simp] theorem Channel.spend_filter (c : Channel) (k : Nat) : (c.spend k).filter = c.filter := rfl
@[simp] theorem Channel.spend_qdctrl (c : Channel) (k : Nat) : (c.spend k).qdctrl = c.qdctrl := rfl
@[simp] theorem Channel.spend_pcrA (c : Channel) (k : Nat) : (c.spend k).pcrA = c.pcrA := rfl
@[simp] theorem Channel.spend_pcrB (c : Channel) (k : Nat) : (c.spend k).pcrB = c.pcrB := rfl
@[simp] theorem Channel.spend_foutA (c : Channel) (k : Nat) : (c.spend k).foutA = c.foutA := rfl
@[simp] theorem Channel.spend_foutB (c : Channel) (k : Nat) : (c.spend k).foutB = c.foutB := rfl
@[simp] theorem Channel.spend_fcntA (c : Channel) (k : Nat) : (c.spend k).fcntA = c.fcntA := rfl
@[simp] theorem Channel.spend_fcntB (c : Channel) (k : Nat) : (c.spend k).fcntB = c.fcntB := rfl
@[simp] theorem Channel.spend_latch (c : Channel) (k : Nat) : (c.spend k).latch = c.latch := rfl
@[simp] theorem Channel.spend_pcr (c : Channel) (k : Nat) (p : Phase) : (c.spend k).pcr p = c.pcr p := by
  cases p <;> rfl
@[simp] theorem Channel.spend_fout (c : Channel) (k : Nat) (p : Phase) : (c.spend k).fout p = c.fout p := by
  cases p <;> rfl
@[simp] theorem Channel.spend_fcnt (c : Channel) (k : Nat) (p : Phase) : (c.spend k).fcnt p = c.fcnt p := by
  cases p <;> rfl

@[simp] theorem Channel.setFilter_fout_same (c : Channel) (p : Phase) (x : Bit) (n : Nat) :
    (c.setFilter p x n).fout p = x := by cases p <;> rfl
@[simp] theorem Channel.setFilter_fcnt_same (c : Channel) (p : Phase) (x : Bit) (n : Nat) :
    (c.setFilter p x n).fcnt p = n := by cases p <;> rfl
theorem Channel.setFilter_fout_other (c : Channel) {p q : Phase} (x : Bit) (n : Nat) (h : q ≠ p) :
    (c.setFilter p x n).fout q = c.fout q := by cases p <;> cases q <;> first | rfl | exact absurd rfl h
theorem Channel.setFilter_fcnt_other (c : Channel) {p q : Phase} (x : Bit) (n : Nat) (h : q ≠ p) :
    (c.setFilter p x n).fcnt q = c.fcnt q := by cases p <;> cases q <;> first | rfl | exact absurd rfl h

end Sys2Proof.Machine
end

