-- ==== Sys2Proof/Laws/Ops.lean ====
section
/-! SUPPORT. What the shared operations do: one lemma for each thing an operation can do, for proofs to cite instead of
unfolding it. -/

namespace Sys2Proof.Machine

/-! The end of a read and of a write -/

@[simp] theorem finishRead_chan (ch : Ch) (reg : Reg) (r : Word) (s : State) (x : Ch) :
    (finishRead ch reg r s).chan x = s.chan x := by simp [finishRead]
@[simp] theorem finishRead_pc (ch : Ch) (reg : Reg) (r : Word) (s : State) :
    (finishRead ch reg r s).pc = s.pc + 1 := rfl
@[simp] theorem finishRead_refusals (ch : Ch) (reg : Reg) (r : Word) (s : State) :
    (finishRead ch reg r s).refusals = s.refusals := rfl
@[simp] theorem finishRead_hist (ch : Ch) (reg : Reg) (r : Word) (s : State) :
    (finishRead ch reg r s).hist = s.hist ++ [.busOp ch .read reg 0#32] := rfl
@[simp] theorem finishRead_results (ch : Ch) (reg : Reg) (r : Word) (s : State) :
    (finishRead ch reg r s).results = s.results ++ [r] := rfl
@[simp] theorem finishRead_program (ch : Ch) (reg : Reg) (r : Word) (s : State) :
    (finishRead ch reg r s).program = s.program := rfl
@[simp] theorem finishRead_script (ch : Ch) (reg : Reg) (r : Word) (s : State) :
    (finishRead ch reg r s).script = s.script := rfl

@[simp] theorem finishWrite_chan (ch : Ch) (reg : Reg) (d : Word) (s : State) (x : Ch) :
    (finishWrite ch reg d s).chan x = s.chan x := by simp [finishWrite]
@[simp] theorem finishWrite_pc (ch : Ch) (reg : Reg) (d : Word) (s : State) :
    (finishWrite ch reg d s).pc = s.pc + 1 := rfl
@[simp] theorem finishWrite_refusals (ch : Ch) (reg : Reg) (d : Word) (s : State) :
    (finishWrite ch reg d s).refusals = s.refusals := rfl
@[simp] theorem finishWrite_hist (ch : Ch) (reg : Reg) (d : Word) (s : State) :
    (finishWrite ch reg d s).hist = s.hist ++ [.busOp ch .write reg d] := rfl
@[simp] theorem finishWrite_results (ch : Ch) (reg : Reg) (d : Word) (s : State) :
    (finishWrite ch reg d s).results = s.results := rfl
@[simp] theorem finishWrite_program (ch : Ch) (reg : Reg) (d : Word) (s : State) :
    (finishWrite ch reg d s).program = s.program := rfl
@[simp] theorem finishWrite_script (ch : Ch) (reg : Reg) (d : Word) (s : State) :
    (finishWrite ch reg d s).script = s.script := rfl

/-! The gate (R120), case by case -/

theorem gate_locked (ch : Ch) (reg : Reg) {c : Channel} (h : c.wpen = 1#1) : gate ch reg c = (.blocked, c) := by
  simp [gate, h]

theorem gate_open (ch : Ch) (reg : Reg) {c : Channel} (h : c.wpen = 0#1) (hf : c.mode.ftmen = 1#1) :
    gate ch reg c = (.admitted, c) := by simp [gate, h, hf]

theorem gate_mode (ch : Ch) {c : Channel} (h : c.wpen = 0#1) : gate ch .mode c = (.admitted, c) := by
  simp [gate, h]

theorem gate_halfOpen (ch : Ch) {reg : Reg} {c : Channel} (h : c.wpen = 0#1) (hf : c.mode.ftmen = 0#1)
    (hr : reg ≠ .mode) :
    gate ch reg c = (if drawBool ch c then .admitted else .blocked, c.spend 1) := by simp [gate, h, hf, hr]

/-- One bit is 0 or 1. -/
theorem bit_cases (b : Bit) : b = 0#1 ∨ b = 1#1 := by
  revert b; decide

/-! The gated store (R140), case by case -/

theorem gatedStore_locked (ch : Ch) (reg : Reg) (e : Bool) (store : Channel → Channel) (s : State)
    (h : (s.chan ch).wpen = 1#1) : gatedStore ch reg e store s = record (.lockedWrite ch reg) s := by
  simp [gatedStore, gate_locked ch reg h, h]

theorem gatedStore_open (ch : Ch) (reg : Reg) (e : Bool) (store : Channel → Channel) (s : State)
    (h : (s.chan ch).wpen = 0#1) (hf : (s.chan ch).mode.ftmen = 1#1) :
    gatedStore ch reg e store s = (refuseIf e .interruptOutOfScope s).setChan ch (store (s.chan ch)) := by
  simp [gatedStore, gate_open ch reg h hf]

theorem gatedStore_halfOpen (ch : Ch) {reg : Reg} (e : Bool) (store : Channel → Channel) (s : State)
    (h : (s.chan ch).wpen = 0#1) (hf : (s.chan ch).mode.ftmen = 0#1) (hr : reg ≠ .mode) :
    gatedStore ch reg e store s =
      if drawBool ch (s.chan ch) then
        (refuseIf e .interruptOutOfScope s).setChan ch (store ((s.chan ch).spend 1))
      else s.setChan ch ((s.chan ch).spend 1) := by
  unfold gatedStore
  rw [gate_halfOpen ch h hf hr]
  cases drawBool ch (s.chan ch) <;> simp [h]

/-- All that the gated store can do (R120, R140), with the hypothesis each case needs. -/
theorem gatedStore_cases (ch : Ch) {reg : Reg} (e : Bool) (store : Channel → Channel) (s : State)
    (hr : reg ≠ .mode) :
    ((s.chan ch).wpen = 1#1 ∧ gatedStore ch reg e store s = record (.lockedWrite ch reg) s) ∨
    ((s.chan ch).wpen = 0#1 ∧ ∃ k,
      gatedStore ch reg e store s = (refuseIf e .interruptOutOfScope s).setChan ch (store ((s.chan ch).spend k))) ∨
    ((s.chan ch).wpen = 0#1 ∧ gatedStore ch reg e store s = s.setChan ch ((s.chan ch).spend 1)) := by
  rcases bit_cases (s.chan ch).wpen with h | h
  · rcases bit_cases (s.chan ch).mode.ftmen with hf | hf
    · rw [gatedStore_halfOpen ch e store s h hf hr]
      cases drawBool ch (s.chan ch)
      · exact .inr (.inr ⟨h, by simp⟩)
      · exact .inr (.inl ⟨h, 1, by simp⟩)
    · exact .inr (.inl ⟨h, 0, gatedStore_open ch reg e store s h hf⟩)
  · exact .inl ⟨h, gatedStore_locked ch reg e store s h⟩

/-- The gated store leaves every other instance alone (20 R71). -/
theorem gatedStore_other (ch : Ch) (reg : Reg) (e : Bool) (store : Channel → Channel) (s : State) {x : Ch}
    (hx : x ≠ ch) : (gatedStore ch reg e store s).chan x = s.chan x := by
  unfold gatedStore
  split
  · simp [State.chan_setChan_other _ _ hx]
  · split <;> simp [State.chan_setChan_other _ _ hx]

/-! W.MODE (R125), case by case -/

theorem modeStore_locked (ch : Ch) (d : Word) (s : State) (h : (s.chan ch).wpen = 1#1) :
    modeStore ch d s = if field d 2 1 = 0#1 then record (.lockedWrite ch .mode) s else s := by
  simp [modeStore, gate_locked ch .mode h]

theorem modeStore_unlocked (ch : Ch) (d : Word) (s : State) (h : (s.chan ch).wpen = 0#1) :
    modeStore ch d s = (refuseIf (field d 7 1 == 1#1) .interruptOutOfScope s).setChan ch
      { s.chan ch with mode := Mode.ofWord d } := by
  simp [modeStore, gate_mode ch h]

theorem modeStore_other (ch : Ch) (d : Word) (s : State) {x : Ch} (hx : x ≠ ch) :
    (modeStore ch d s).chan x = s.chan x := by
  unfold modeStore
  split
  · simp [State.chan_setChan_other _ _ hx]
  · split <;> simp

theorem wpdisStore_other (ch : Ch) (d : Word) (s : State) {x : Ch} (hx : x ≠ ch) :
    (wpdisStore ch d s).chan x = s.chan x := by
  unfold wpdisStore; split <;> simp [State.chan_setChan_other _ _ hx]

theorem wpenStore_other (ch : Ch) (d : Word) (s : State) {x : Ch} (hx : x ≠ ch) :
    (wpenStore ch d s).chan x = s.chan x := by
  unfold wpenStore; split <;> simp [State.chan_setChan_other _ _ hx]

end Sys2Proof.Machine
end

