-- ==== Sys2Proof/Laws/Exec.lean ====
section
/-! SUPPORT. What `exec` answers, in the terms of Safety: a read leaves `afterRead`, a write `afterWrite`. -/

namespace Sys2Proof.Machine

/-- A bit that is not 0 is 1. -/
theorem bit_ne_zero (b : Bit) : (b != 0#1) = (b == 1#1) := by revert b; decide

/-- The end of a read, as the statements write it. -/
theorem finishRead_eq_afterRead (s : State) (ch : Ch) (reg : Reg) (r : Word) (k : Nat) :
    finishRead ch reg r (s.setChan ch ((s.chan ch).spend k)) = afterRead s ch reg r k := by
  cases ch <;> simp [finishRead, advance, record, returnWord, State.setChan, afterRead, Channel.spend]

/-- The end of a read that takes no free value. -/
theorem finishRead_eq_afterRead_zero (s : State) (ch : Ch) (reg : Reg) (r : Word) :
    finishRead ch reg r s = afterRead s ch reg r 0 := by
  cases ch <;> rfl

/-- The end of a write that replaces the instance's record and may refuse. -/
theorem finishWrite_eq_afterWrite (s : State) (ch : Ch) (reg : Reg) (d : Word) (c : Channel) (b : Bool)
    (r : RefuseReason) :
    finishWrite ch reg d ((refuseIf b r s).setChan ch c) = afterWrite s ch reg d c [] (if b then [r] else []) := by
  cases ch <;> cases b <;> simp [finishWrite, advance, record, State.setChan, afterWrite, refuseIf, refuse]

/-- The end of a write that records an event and nothing else. -/
theorem finishWrite_record_eq_afterWrite (s : State) (ch : Ch) (reg : Reg) (d : Word) (e : Event) :
    finishWrite ch reg d (record e s) = afterWrite s ch reg d (s.chan ch) [e] [] := by
  cases ch <;> simp [finishWrite, advance, record, afterWrite]

/-- The end of a write that replaces the instance's record. -/
theorem finishWrite_setChan_eq_afterWrite (s : State) (ch : Ch) (reg : Reg) (d : Word) (c : Channel) :
    finishWrite ch reg d (s.setChan ch c) = afterWrite s ch reg d c [] [] :=
  finishWrite_eq_afterWrite s ch reg d c false .reservedEncoding

@[simp] theorem afterRead_pc (s : State) (ch : Ch) (reg : Reg) (r : Word) (k : Nat) :
    (afterRead s ch reg r k).pc = s.pc + 1 := rfl
@[simp] theorem afterRead_refusals (s : State) (ch : Ch) (reg : Reg) (r : Word) (k : Nat) :
    (afterRead s ch reg r k).refusals = s.refusals := rfl
@[simp] theorem afterRead_hist (s : State) (ch : Ch) (reg : Reg) (r : Word) (k : Nat) :
    (afterRead s ch reg r k).hist = s.hist ++ [.busOp ch .read reg 0#32] := rfl
@[simp] theorem afterRead_results (s : State) (ch : Ch) (reg : Reg) (r : Word) (k : Nat) :
    (afterRead s ch reg r k).results = s.results ++ [r] := rfl
theorem afterRead_chan_same (s : State) (ch : Ch) (reg : Reg) (r : Word) (k : Nat) :
    (afterRead s ch reg r k).chan ch = (s.chan ch).spend k := by cases ch <;> rfl
theorem afterRead_chan_other (s : State) {ch x : Ch} (reg : Reg) (r : Word) (k : Nat) (h : x ≠ ch) :
    (afterRead s ch reg r k).chan x = s.chan x := by
  cases ch <;> cases x <;> first | rfl | exact absurd rfl h

@[simp] theorem afterWrite_pc (s : State) (ch : Ch) (reg : Reg) (d : Word) (c : Channel) (es : List Event)
    (rs : List RefuseReason) : (afterWrite s ch reg d c es rs).pc = s.pc + 1 := rfl
@[simp] theorem afterWrite_refusals (s : State) (ch : Ch) (reg : Reg) (d : Word) (c : Channel) (es : List Event)
    (rs : List RefuseReason) : (afterWrite s ch reg d c es rs).refusals = s.refusals ++ rs := rfl
@[simp] theorem afterWrite_hist (s : State) (ch : Ch) (reg : Reg) (d : Word) (c : Channel) (es : List Event)
    (rs : List RefuseReason) :
    (afterWrite s ch reg d c es rs).hist = s.hist ++ es ++ [.busOp ch .write reg d] := rfl
@[simp] theorem afterWrite_results (s : State) (ch : Ch) (reg : Reg) (d : Word) (c : Channel) (es : List Event)
    (rs : List RefuseReason) : (afterWrite s ch reg d c es rs).results = s.results := rfl
@[simp] theorem afterWrite_chan_same (s : State) (ch : Ch) (reg : Reg) (d : Word) (c : Channel) (es : List Event)
    (rs : List RefuseReason) : (afterWrite s ch reg d c es rs).chan ch = c := by cases ch <;> rfl
theorem afterWrite_chan_other (s : State) {ch x : Ch} (reg : Reg) (d : Word) (c : Channel) (es : List Event)
    (rs : List RefuseReason) (h : x ≠ ch) : (afterWrite s ch reg d c es rs).chan x = s.chan x := by
  cases ch <;> cases x <;> first | rfl | exact absurd rfl h

/-- A transaction word is made of its four fields. -/
theorem transaction_eq (w : Bit) (ch : Ch) (sel : BitVec 6) (d : Word) :
    transaction w ch sel d = wordOfFields ⟨w, ch.bit, sel, d⟩ := by cases ch <;> rfl

/-- The word of a read of `r` (R81, R82, R84). -/
theorem readWordOf_readInstr (r : Reg) (ch : Ch) : ReadWordOf (readInstr r ch) ch r.sel where
  operation := by simp [transaction_eq, decode_wordOfFields, decodeFields]
  reserved d s hd := by simp [runWord, transaction_eq, decode_wordOfFields, decodeFields, hd, reservedAccess, refuse, advance]

/-- The word of a write of `r` (R81, R82). -/
theorem writeWordOf_writeInstr (r : Reg) (ch : Ch) (d : Word) : WriteWordOf (writeInstr r ch d) ch r.sel d := by
  simp [WriteWordOf, transaction_eq, decode_wordOfFields, decodeFields]

/-- A gated write (R140) in the three lock states. `hs` says that the store leaves the count of free values alone. -/
theorem gatedWriteOf_of_gatedWrite {i : Instr} {sel : BitVec 6} {s : State} {ch : Ch} {reg : Reg} {d : Word} {e : Bool}
    {store : Channel → Channel} (hw : WriteWordOf i ch sel d)
    (hi : exec i s = .next (gatedWrite ch reg d e store s)) (hr : reg ≠ .mode)
    (hs : store ((s.chan ch).spend 1) = { store (s.chan ch) with draws := (s.chan ch).draws + 1 }) :
    GatedWriteOf i sel s ch reg d (store (s.chan ch)) (if e then [.interruptOutOfScope] else []) where
  word := hw
  locked h := by
    rw [hi, gatedWrite, gatedStore_locked ch reg e store s h, finishWrite_record_eq_afterWrite]
  opened h := by
    rw [hi, gatedWrite, gatedStore_open ch reg e store s h.1 h.2, finishWrite_eq_afterWrite]
  halfOpen h := by
    rw [hi, gatedWrite, gatedStore_halfOpen ch e store s h.1 h.2 hr]
    by_cases hd : Config.freeValue 1 ch (s.chan ch).draws = 1#1
    · have hb : drawBool ch (s.chan ch) = true := by simpa [drawBool, drawBits] using hd
      rw [if_pos hb, if_pos hd, finishWrite_eq_afterWrite, hs]
    · have hb : ¬ drawBool ch (s.chan ch) = true := by simpa [drawBool, drawBits] using hd
      rw [if_neg hb, if_neg hd, finishWrite_setChan_eq_afterWrite]; rfl

/-- An operation always answers a next state, the one `execNext` names. -/
theorem exec_eq_next (i : Instr) (s : State) : exec i s = .next (execNext i s) := by cases i <;> rfl

/-- All that the gated store can do to the state: the record, the history and the refusal mark (R140). -/
theorem gatedStore_eq (ch : Ch) (reg : Reg) (e : Bool) (store : Channel → Channel) (s : State) :
    ∃ c es rs, gatedStore ch reg e store s =
      { s.setChan ch c with hist := s.hist ++ es, refusals := s.refusals ++ rs } := by
  unfold gatedStore
  split
  · rename_i c _
    exact ⟨store c, [], if e then [.interruptOutOfScope] else [], by
      cases ch <;> cases e <;> simp [State.setChan, refuseIf, refuse]⟩
  · rename_i c _
    split
    · exact ⟨c, [.lockedWrite ch reg], [], by cases ch <;> simp [State.setChan, record]⟩
    · exact ⟨c, [], [], by cases ch <;> simp [State.setChan]⟩

/-- A gated write leaves an `afterWrite`. -/
theorem gatedWrite_eq (ch : Ch) (reg : Reg) (d : Word) (e : Bool) (store : Channel → Channel) (s : State) :
    ∃ c es rs, gatedWrite ch reg d e store s = afterWrite s ch reg d c es rs := by
  obtain ⟨c, es, rs, h⟩ := gatedStore_eq ch reg e store s
  refine ⟨c, es, rs, ?_⟩
  rw [gatedWrite, h]; cases ch <;> rfl

/-- All that an operation can do: an `afterRead` or an `afterWrite` of its own instance. -/
theorem execNext_cases (i : Instr) (s : State) :
    (∃ reg r k, execNext i s = afterRead s i.channel reg r k) ∨
      (∃ reg d c es rs, execNext i s = afterWrite s i.channel reg d c es rs) := by
  cases i <;> simp only [Instr.channel, Instr.fields, readFields, writeFields, Ch.ofBit_bit, execNext, exec,
      execRPcrA, execWPcrA, execRPcrB, execWPcrB, execRMode, execWMode, execRFms, execWFms, execRSc, execWSc, execRMod,
      execWMod, execRCntin, execWCntin, execRC0sc, execWC0sc, execRC0v, execWC0v, execRC1sc, execWC1sc, execRC1v,
      execWC1v, execRFilter, execWFilter, execRQdctrl, execWQdctrl, execRCnt, execWCnt, cntWrite]
  case wMode ch d =>
    rcases bit_cases (s.chan ch).wpen with h | h
    · rw [modeStore_unlocked ch d s h]; unfold wpdisStore; split
      · rw [State.chan_setChan_same, State.setChan_setChan, finishWrite_eq_afterWrite]
        exact .inr ⟨_, _, _, _, _, rfl⟩
      · rw [finishWrite_eq_afterWrite]; exact .inr ⟨_, _, _, _, _, rfl⟩
    · rw [modeStore_locked ch d s h]; unfold wpdisStore; split
      · rw [if_neg (by simp [*]), finishWrite_setChan_eq_afterWrite]
        exact .inr ⟨_, _, _, _, _, rfl⟩
      · rw [if_pos (by rcases bit_cases (field d 2 1) with h | h <;> simp_all), finishWrite_record_eq_afterWrite]
        exact .inr ⟨_, _, _, _, _, rfl⟩
  case wFms ch d =>
    unfold wpenStore; split
    · rw [finishWrite_setChan_eq_afterWrite]; exact .inr ⟨_, _, _, _, _, rfl⟩
    · have := finishWrite_setChan_eq_afterWrite s ch .fms d (s.chan ch)
      rw [State.setChan_chan] at this; rw [this]; exact .inr ⟨_, _, _, _, _, rfl⟩
  all_goals first
    | (rw [finishRead_eq_afterRead]; exact .inl ⟨_, _, _, rfl⟩)
    | (rw [finishRead_eq_afterRead_zero]; exact .inl ⟨_, _, _, rfl⟩)
    | (rw [finishWrite_eq_afterWrite]; exact .inr ⟨_, _, _, _, _, rfl⟩)
    | (rw [finishWrite_setChan_eq_afterWrite]; exact .inr ⟨_, _, _, _, _, rfl⟩)
    | (obtain ⟨c, es, rs, h⟩ := gatedWrite_eq _ _ _ _ _ s; rw [h]
       exact .inr ⟨_, _, c, es, rs, rfl⟩)

end Sys2Proof.Machine
end

