-- ==== Sys2Proof/Laws/Tick.lean ====
section
/-! SUPPORT. What the parts of a tick do. -/

namespace Sys2Proof.Machine

/-- A pin's level takes no free value, or one (R105). -/
theorem pinLevel_spends (ch : Ch) (p : Phase) (l : Level) (c : Channel) :
    ∃ k, (pinLevel ch p l c).2 = c.spend k := by
  cases l
  · exact ⟨0, rfl⟩
  · exact ⟨0, rfl⟩
  · simp only [pinLevel]
    split
    · exact ⟨0, rfl⟩
    · exact ⟨1, rfl⟩

/-- A decoder input takes no free value, or one (R107). -/
theorem decIn_spends (prm : Params) (ch : Ch) (p : Phase) (l : Level) (c : Channel) :
    ∃ k, (decIn prm ch p l c).2 = c.spend k := by
  unfold decIn
  split
  · exact pinLevel_spends ch p l c
  · exact ⟨1, rfl⟩

/-- A routed and driven pin gives its level and takes no free value (R105, R107). -/
theorem decIn_driven (prm : Params) (ch : Ch) (p : Phase) (b : Bit) {c : Channel}
    (h : (c.pcr p).mux = prm.altQd ch p) : decIn prm ch p (levelOf b) c = (b, c) := by
  unfold decIn
  rw [if_pos h]
  obtain rfl | rfl : b = 0#1 ∨ b = 1#1 := by revert b; decide
  · rfl
  · rfl

/-- A filter changes its phase's output and count, and takes no free value, or one (R184). -/
theorem filterPhase_eq (prm : Params) (ch : Ch) (p : Phase) (x : Bit) (c : Channel) :
    ∃ k fout fcnt, filterPhase prm ch p x c = (c.spend k).setFilter p fout fcnt := by
  unfold filterPhase filterCandidate
  split
  · exact ⟨0, _, _, rfl⟩
  split
  · exact ⟨0, _, _, rfl⟩
  split
  · exact ⟨0, _, _, rfl⟩
  split
  · split
    · exact ⟨1, _, _, rfl⟩
    · exact ⟨1, _, _, rfl⟩
  · exact ⟨0, _, _, rfl⟩

/-- The pass-through of a disabled filter (R184). -/
theorem filterPhase_off (prm : Params) (ch : Ch) (p : Phase) (x : Bit) {c : Channel}
    (h : c.filterEnable p = 0#1 ∨ c.filterValue p = 0#4) : filterPhase prm ch p x c = c.setFilter p x 0 := by
  simp [filterPhase, h]

/-- A sample equal to the output abandons the candidate (R184). -/
theorem filterPhase_settled (prm : Params) (ch : Ch) (p : Phase) (c : Channel) :
    filterPhase prm ch p (c.fout p) c = c.setFilter p (c.fout p) 0 := by
  simp [filterPhase]

/-- The counter's part of a tick changes the counter and takes no free value, or leaves a fresh one in it (R181, R182,
R186). -/
theorem countTick_eq (ch : Ch) (d : Delta) (c : Channel) :
    (∃ v, countTick ch d c = { c with cnt := v }) ∨ countTick ch d c = drawCount ch c := by
  have hc : (∃ v, count ch d c = { c with cnt := v }) ∨ count ch d c = drawCount ch c := by
    unfold count
    cases d
    · exact .inl ⟨_, rfl⟩
    · simp only
      split
      · exact .inl ⟨_, rfl⟩
      split
      · exact .inl ⟨_, rfl⟩
      · exact .inr rfl
    · simp only
      split
      · exact .inl ⟨_, rfl⟩
      split
      · exact .inl ⟨_, rfl⟩
      · exact .inr rfl
    · exact .inr rfl
  unfold countTick
  split
  · exact hc
  split
  · exact .inr rfl
  split
  · exact .inl ⟨_, rfl⟩
  · exact .inr rfl

/-- The filters' part of a tick changes the hidden state alone: both outputs, both counts, and the free values taken. -/
theorem filterTick_eq (prm : Params) (ch : Ch) (la lb : Level) (c : Channel) :
    ∃ k fa na fb nb, filterTick prm ch la lb c =
      { c with foutA := fa, fcntA := na, foutB := fb, fcntB := nb, draws := c.draws + k } := by
  obtain ⟨k1, h1⟩ := decIn_spends prm ch .a la c
  obtain ⟨k2, h2⟩ := decIn_spends prm ch .b lb (decIn prm ch .a la c).2
  obtain ⟨k3, fa, na, h3⟩ := filterPhase_eq prm ch .a (decIn prm ch .a la c).1 (decIn prm ch .b lb (decIn prm ch .a la c).2).2
  obtain ⟨k4, fb, nb, h4⟩ := filterPhase_eq prm ch .b (decIn prm ch .b lb (decIn prm ch .a la c).2).1
    (filterPhase prm ch .a (decIn prm ch .a la c).1 (decIn prm ch .b lb (decIn prm ch .a la c).2).2)
  refine ⟨k1 + k2 + k3 + k4, fa, na, fb, nb, ?_⟩
  simp only [filterTick]
  rw [h4, h3, h2, h1]
  simp [Channel.spend, Channel.setFilter, Nat.add_assoc]

/-- The counter's part of a tick leaves the hidden state alone. -/
theorem countTick_hidden (ch : Ch) (d : Delta) (c : Channel) :
    (countTick ch d c).latch = c.latch ∧ (countTick ch d c).foutA = c.foutA ∧ (countTick ch d c).foutB = c.foutB ∧
      (countTick ch d c).fcntA = c.fcntA ∧ (countTick ch d c).fcntB = c.fcntB ∧ (countTick ch d c).qdctrl = c.qdctrl := by
  rcases countTick_eq ch d c with ⟨v, hv⟩ | hv <;> rw [hv] <;> simp [drawCount, Channel.spend]

/-- A tick leaves the filters as its two filter steps do (R187). -/
theorem tickChannel_filter (prm : Params) (ch : Ch) (la lb : Level) (c : Channel) :
    (tickChannel prm ch la lb c).foutA = (filterTick prm ch la lb c).foutA ∧
      (tickChannel prm ch la lb c).foutB = (filterTick prm ch la lb c).foutB ∧
      (tickChannel prm ch la lb c).fcntA = (filterTick prm ch la lb c).fcntA ∧
      (tickChannel prm ch la lb c).fcntB = (filterTick prm ch la lb c).fcntB := by
  simp only [tickChannel]
  generalize filterTick prm ch la lb c = d
  obtain ⟨-, h1, h2, h3, h4, -⟩ := countTick_hidden ch d.delta d.relatch
  exact ⟨h1, h2, h3, h4⟩

/-- All that a tick can do to its instance: CNT, the hidden state and the count of free values (R187). -/
theorem tickChannel_eq (prm : Params) (ch : Ch) (la lb : Level) (c : Channel) :
    ∃ v fa fb na nb l k, tickChannel prm ch la lb c =
      { c with cnt := v, foutA := fa, foutB := fb, fcntA := na, fcntB := nb, latch := l, draws := k } := by
  obtain ⟨k, fa, na, fb, nb, h⟩ := filterTick_eq prm ch la lb c
  simp only [tickChannel]
  rcases countTick_eq ch (filterTick prm ch la lb c).delta (filterTick prm ch la lb c).relatch with ⟨v, hv⟩ | hv
  · rw [hv, h]; exact ⟨v, fa, fb, na, nb, _, _, rfl⟩
  · rw [hv, h]; exact ⟨_, fa, fb, na, nb, _, _, rfl⟩

/-- A tick touches one instance. -/
@[simp] theorem tick_chan_same (ch : Ch) (la lb : Level) (s : State) :
    (tick ch la lb s).chan ch = tickChannel Config.params ch la lb (s.chan ch) := by simp [tick]

theorem tick_chan_other {ch x : Ch} (la lb : Level) (s : State) (h : x ≠ ch) :
    (tick ch la lb s).chan x = s.chan x := by simp [tick, State.chan_setChan_other _ _ h]

@[simp] theorem tick_pc (ch : Ch) (la lb : Level) (s : State) : (tick ch la lb s).pc = s.pc := by simp [tick]
@[simp] theorem tick_refusals (ch : Ch) (la lb : Level) (s : State) : (tick ch la lb s).refusals = s.refusals := by
  simp [tick]
@[simp] theorem tick_hist (ch : Ch) (la lb : Level) (s : State) : (tick ch la lb s).hist = s.hist := by simp [tick]
@[simp] theorem tick_results (ch : Ch) (la lb : Level) (s : State) : (tick ch la lb s).results = s.results := by
  simp [tick]
@[simp] theorem tick_program (ch : Ch) (la lb : Level) (s : State) : (tick ch la lb s).program = s.program := by
  simp [tick]
@[simp] theorem tick_script (ch : Ch) (la lb : Level) (s : State) : (tick ch la lb s).script = s.script := by
  simp [tick]

/-! Sequences of ticks and of acts -/

@[simp] theorem runTicks_nil (prm : Params) (ch : Ch) (c : Channel) : runTicks prm ch [] c = c := rfl
@[simp] theorem runTicks_cons (prm : Params) (ch : Ch) (l : Level × Level) (ls : List (Level × Level)) (c : Channel) :
    runTicks prm ch (l :: ls) c = runTicks prm ch ls (tickChannel prm ch l.1 l.2 c) := by
  simp only [runTicks, List.foldl_cons]
theorem runTicks_append (prm : Params) (ch : Ch) (ls ms : List (Level × Level)) (c : Channel) :
    runTicks prm ch (ls ++ ms) c = runTicks prm ch ms (runTicks prm ch ls c) := by
  simp only [runTicks, List.foldl_append]

@[simp] theorem runActs_nil (s : State) : runActs [] s = s := rfl
@[simp] theorem runActs_cons (x : Act) (acts : List Act) (s : State) :
    runActs (x :: acts) s = runActs acts (runAct s x) := by
  simp only [runActs, List.foldl_cons]
theorem runActs_append (as bs : List Act) (s : State) : runActs (as ++ bs) s = runActs bs (runActs as s) := by
  simp only [runActs, List.foldl_append]

end Sys2Proof.Machine
end

