-- ==== Sys2Proof/Laws/Acts.lean ====
section
/-! SUPPORT. What an operation, and an act, does to the record of one instance: nothing to the other instance's, and to
its own something that depends on nothing but that record (20_memory R71). -/

namespace Sys2Proof.Machine

/-- What a gated write does to the instance's record (R120, R140). -/
def gatedChan (ch : Ch) (reg : Reg) (store : Channel → Channel) (c : Channel) : Channel :=
  match gate ch reg c with
  | (.admitted, c') => store c'
  | (.blocked, c') => c'

theorem gatedStore_chan (ch : Ch) (reg : Reg) (e : Bool) (store : Channel → Channel) (s : State) :
    (gatedStore ch reg e store s).chan ch = gatedChan ch reg store (s.chan ch) := by
  unfold gatedStore gatedChan
  rcases gate ch reg (s.chan ch) with ⟨a, c⟩
  cases a
  · simp
  · simp only
    split <;> simp

/-- What W.MODE does to the instance's record (R125). -/
def modeChan (d : Word) (c : Channel) : Channel :=
  let c' := if c.wpen = 1#1 then c else { c with mode := Mode.ofWord d }
  if field d 2 1 = 1#1 then { c' with wpen := 0#1 } else c'

theorem wMode_chan (ch : Ch) (d : Word) (s : State) :
    (wpdisStore ch d (modeStore ch d s)).chan ch = modeChan d (s.chan ch) := by
  have hm : (modeStore ch d s).chan ch =
      if (s.chan ch).wpen = 1#1 then s.chan ch else { s.chan ch with mode := Mode.ofWord d } := by
    rcases bit_cases (s.chan ch).wpen with h | h
    · rw [modeStore_unlocked ch d s h, if_neg (by rw [h]; decide)]; simp
    · rw [modeStore_locked ch d s h, if_pos h]; split <;> simp
  unfold wpdisStore modeChan
  split
  · rw [State.chan_setChan_same, hm]
  · exact hm

/-- What an operation does to the record of its own instance. -/
def opChan : Instr → Channel → Channel
  | .rPcrA _, c => c.spend 1
  | .wPcrA _ d, c => { c with pcrA := Pcr.ofWord d }
  | .rPcrB _, c => c.spend 1
  | .wPcrB _ d, c => { c with pcrB := Pcr.ofWord d }
  | .rMode _, c => c.spend 1
  | .wMode _ d, c => modeChan d c
  | .rFms _, c => c.spend 2
  | .wFms _ d, c => if field d 6 1 = 1#1 then { c with wpen := 1#1 } else c
  | .rSc _, c => c.spend 1
  | .wSc ch d, c => gatedChan ch .sc (fun c => { c with sc := Sc.ofWord d }) c
  | .rMod _, c => c
  | .wMod ch d, c => gatedChan ch .mod (fun c => { c with mod := low16 d }) c
  | .rCntin _, c => c
  | .wCntin ch d, c => gatedChan ch .cntin (fun c => { c with cntin := low16 d }) c
  | .rC0sc _, c => c.spend 1
  | .wC0sc ch d, c => gatedChan ch .c0sc (fun c => { c with c0sc := Cnsc.ofWord d }) c
  | .rC0v _, c => c
  | .wC0v ch d, c => gatedChan ch .c0v (fun c => { c with c0v := low16 d }) c
  | .rC1sc _, c => c.spend 1
  | .wC1sc ch d, c => gatedChan ch .c1sc (fun c => { c with c1sc := Cnsc.ofWord d }) c
  | .rC1v _, c => c
  | .wC1v ch d, c => gatedChan ch .c1v (fun c => { c with c1v := low16 d }) c
  | .rFilter _, c => c
  | .wFilter ch d, c => gatedChan ch .filter (fun c => { c with filter := Filter.ofWord d }) c
  | .rQdctrl _, c => c.spend 2
  | .wQdctrl ch d, c => gatedChan ch .qdctrl (fun c => { c with qdctrl := Qdctrl.ofWord d }) c
  | .rCnt _, c => c
  | .wCnt _ d, c => { c with cnt := low16 d }

/-- The instance that each operation names. -/
theorem channel_readInstr (r : Reg) (ch : Ch) : (readInstr r ch).channel = ch := by
  simp [Instr.channel, readFields]
theorem channel_writeInstr (r : Reg) (ch : Ch) (d : Word) : (writeInstr r ch d).channel = ch := by
  simp [Instr.channel, writeFields]

theorem wpenStore_chan (ch : Ch) (d : Word) (s : State) :
    (wpenStore ch d s).chan ch = if field d 6 1 = 1#1 then { s.chan ch with wpen := 1#1 } else s.chan ch := by
  unfold wpenStore; split <;> simp

theorem gatedWrite_chan (ch : Ch) (reg : Reg) (d : Word) (e : Bool) (store : Channel → Channel) (s : State) :
    (gatedWrite ch reg d e store s).chan ch = gatedChan ch reg store (s.chan ch) := by
  rw [gatedWrite, finishWrite_chan, gatedStore_chan]

theorem gatedWrite_other (ch : Ch) (reg : Reg) (d : Word) (e : Bool) (store : Channel → Channel) (s : State)
    {x : Ch} (hx : x ≠ ch) : (gatedWrite ch reg d e store s).chan x = s.chan x := by
  rw [gatedWrite, finishWrite_chan, gatedStore_other _ _ _ _ _ hx]

/-- An operation's effect on its own instance is `opChan`. -/
theorem execNext_chan (i : Instr) (s : State) : (execNext i s).chan i.channel = opChan i (s.chan i.channel) := by
  cases i <;>
    simp only [Instr.channel, Instr.fields, readFields, writeFields, Ch.ofBit_bit, execNext, exec, opChan,
      execRPcrA, execWPcrA, execRPcrB, execWPcrB, execRMode, execWMode, execRFms, execWFms, execRSc, execWSc, execRMod,
      execWMod, execRCntin, execWCntin, execRC0sc, execWC0sc, execRC0v, execWC0v, execRC1sc, execWC1sc, execRC1v,
      execWC1v, execRFilter, execWFilter, execRQdctrl, execWQdctrl, execRCnt, execWCnt, cntWrite, cntLoad, Config.params,
      finishRead_chan,
      finishWrite_chan, State.chan_setChan_same, gatedWrite_chan, wMode_chan, wpenStore_chan, refuseIf_chan]

/-- An operation leaves the other instance alone (20 R71). -/
theorem execNext_other (i : Instr) (s : State) {x : Ch} (hx : x ≠ i.channel) : (execNext i s).chan x = s.chan x := by
  revert hx
  cases i <;>
    simp only [Instr.channel, Instr.fields, readFields, writeFields, Ch.ofBit_bit, execNext, exec,
      execRPcrA, execWPcrA, execRPcrB, execWPcrB, execRMode, execWMode, execRFms, execWFms, execRSc, execWSc, execRMod,
      execWMod, execRCntin, execWCntin, execRC0sc, execWC0sc, execRC0v, execWC0v, execRC1sc, execWC1sc, execRC1v,
      execWC1v, execRFilter, execWFilter, execRQdctrl, execWQdctrl, execRCnt, execWCnt, cntWrite, finishRead_chan,
      finishWrite_chan] <;>
    intro hx <;>
    simp only [State.chan_setChan_other _ _ hx, gatedWrite_other _ _ _ _ _ _ hx, wpdisStore_other _ _ _ hx,
      modeStore_other _ _ _ hx, wpenStore_other _ _ _ hx, refuseIf_chan]

/-- What an act does to the record of one instance. -/
def actChan (ch : Ch) (x : Act) (c : Channel) : Channel :=
  match x with
  | .op i => if i.channel = ch then opChan i c else c
  | .tick y la lb => if y = ch then tickChannel Config.params ch la lb c else c

theorem runAct_chan (ch : Ch) (x : Act) (s : State) : (runAct s x).chan ch = actChan ch x (s.chan ch) := by
  cases x with
  | op i =>
    simp only [runAct, actChan]
    split
    · rename_i h; rw [← h]; exact execNext_chan i s
    · rename_i h; exact execNext_other i s (Ne.symm h)
  | tick y la lb =>
    simp only [runAct, actChan]
    split
    · rename_i h; rw [h]; exact tick_chan_same ch la lb s
    · rename_i h; exact tick_chan_other la lb s (Ne.symm h)

theorem runActs_chan (ch : Ch) (acts : List Act) (s : State) :
    (runActs acts s).chan ch = acts.foldl (fun c x => actChan ch x c) (s.chan ch) := by
  induction acts generalizing s with
  | nil => rfl
  | cons x acts ih => rw [runActs_cons, ih, runAct_chan, List.foldl_cons]

end Sys2Proof.Machine
end

