-- ==== Sys2Proof/Laws/PerInstr.lean ====
section
/-! SUPPORT. Statements for all operations, one lemma each. Family `TableRow`: the word of an operation has the match of
its row of spec/opcode_table.json under the row's mask (30_encoding R82, R86). -/

namespace Sys2Proof.Laws.TableRow

/-- The encoding of `i` lies in its row of the opcode table. -/
def Statement (i : Instr) : Prop :=
  encode i &&& i.mask = i.matchBits

/-- The masked word of a read, from its fields. -/
theorem read_row (r : Reg) (ch : Ch) :
    wordOfFields (readFields r ch) &&& 0xBFFFFFFFFF#40 = wordOfFields (readFields r .ch0) := by
  cases r <;> cases ch <;> decide

/-- The masked word of a write, from its fields. -/
theorem write_row (r : Reg) (ch : Ch) (d : Word) :
    wordOfFields (writeFields r ch d) &&& 0xBF00000000#40 = wordOfFields (writeFields r .ch0 0#32) := by
  have h : wordOfFields (writeFields r ch d) &&& 0xFF00000000#40 = wordOfFields (writeFields r ch 0#32) := by
    apply BitVec.eq_of_getLsbD_eq
    intro i hi
    change ((1#1 ++ ch.bit ++ r.sel ++ d) &&& 0xFF00000000#40).getLsbD i = (1#1 ++ ch.bit ++ r.sel ++ 0#32).getLsbD i
    have hm : ∀ j : Fin 40, (0xFF00000000#40).getLsbD j = decide (32 ≤ j.val) := by decide
    rw [BitVec.getLsbD_and, hm ⟨i, hi⟩, BitVec.getLsbD_append (x := 1#1 ++ ch.bit ++ r.sel) (y := d),
      BitVec.getLsbD_append (x := 1#1 ++ ch.bit ++ r.sel) (y := 0#32)]
    by_cases hd : i < 32
    · simp [hd]
    · simp [hd]
      omega
  have h2 : (0xBF00000000#40 : TWord) = 0xFF00000000#40 &&& 0xBF00000000#40 := by decide
  rw [h2, ← BitVec.and_assoc, h]
  cases r <;> cases ch <;> decide

theorem rPcrA (ch : Ch) : Statement (.rPcrA ch) := (read_row .pcrA ch).trans rfl
theorem wPcrA (ch : Ch) (d : Word) : Statement (.wPcrA ch d) := (write_row .pcrA ch d).trans rfl
theorem rPcrB (ch : Ch) : Statement (.rPcrB ch) := (read_row .pcrB ch).trans rfl
theorem wPcrB (ch : Ch) (d : Word) : Statement (.wPcrB ch d) := (write_row .pcrB ch d).trans rfl
theorem rMode (ch : Ch) : Statement (.rMode ch) := (read_row .mode ch).trans rfl
theorem wMode (ch : Ch) (d : Word) : Statement (.wMode ch d) := (write_row .mode ch d).trans rfl
theorem rFms (ch : Ch) : Statement (.rFms ch) := (read_row .fms ch).trans rfl
theorem wFms (ch : Ch) (d : Word) : Statement (.wFms ch d) := (write_row .fms ch d).trans rfl
theorem rSc (ch : Ch) : Statement (.rSc ch) := (read_row .sc ch).trans rfl
theorem wSc (ch : Ch) (d : Word) : Statement (.wSc ch d) := (write_row .sc ch d).trans rfl
theorem rMod (ch : Ch) : Statement (.rMod ch) := (read_row .mod ch).trans rfl
theorem wMod (ch : Ch) (d : Word) : Statement (.wMod ch d) := (write_row .mod ch d).trans rfl
theorem rCntin (ch : Ch) : Statement (.rCntin ch) := (read_row .cntin ch).trans rfl
theorem wCntin (ch : Ch) (d : Word) : Statement (.wCntin ch d) := (write_row .cntin ch d).trans rfl
theorem rC0sc (ch : Ch) : Statement (.rC0sc ch) := (read_row .c0sc ch).trans rfl
theorem wC0sc (ch : Ch) (d : Word) : Statement (.wC0sc ch d) := (write_row .c0sc ch d).trans rfl
theorem rC0v (ch : Ch) : Statement (.rC0v ch) := (read_row .c0v ch).trans rfl
theorem wC0v (ch : Ch) (d : Word) : Statement (.wC0v ch d) := (write_row .c0v ch d).trans rfl
theorem rC1sc (ch : Ch) : Statement (.rC1sc ch) := (read_row .c1sc ch).trans rfl
theorem wC1sc (ch : Ch) (d : Word) : Statement (.wC1sc ch d) := (write_row .c1sc ch d).trans rfl
theorem rC1v (ch : Ch) : Statement (.rC1v ch) := (read_row .c1v ch).trans rfl
theorem wC1v (ch : Ch) (d : Word) : Statement (.wC1v ch d) := (write_row .c1v ch d).trans rfl
theorem rFilter (ch : Ch) : Statement (.rFilter ch) := (read_row .filter ch).trans rfl
theorem wFilter (ch : Ch) (d : Word) : Statement (.wFilter ch d) := (write_row .filter ch d).trans rfl
theorem rQdctrl (ch : Ch) : Statement (.rQdctrl ch) := (read_row .qdctrl ch).trans rfl
theorem wQdctrl (ch : Ch) (d : Word) : Statement (.wQdctrl ch d) := (write_row .qdctrl ch d).trans rfl
theorem rCnt (ch : Ch) : Statement (.rCnt ch) := (read_row .cnt ch).trans rfl
theorem wCnt (ch : Ch) (d : Word) : Statement (.wCnt ch d) := (write_row .cnt ch d).trans rfl

end Sys2Proof.Laws.TableRow
end

