-- ==== Sys2Proof/Laws/Script.lean ====
section
/-! SUPPORT. What the script directives do (30_encoding R88), what the parts of WellFormedEnv say of a list one level
longer (70_reset_and_hazards R283), and what a filter of a configured instance does with an environment level. -/

namespace Sys2Proof.Machine

/-! The script's current levels -/

@[simp] theorem bitOf_levelOf (pull b : Bit) : bitOf pull (levelOf b) = b := by revert pull b; decide

@[simp] theorem levelsAt_setLevels (e : ScriptLevels) (ch : Ch) (x : Level × Level) :
    levelsAt (setLevels e ch x) ch = x := by cases ch <;> rfl

theorem levelsAt_setLevels_other (e : ScriptLevels) {ch y : Ch} (h : y ≠ ch) (x : Level × Level) :
    levelsAt (setLevels e ch x) y = levelsAt e y := by
  cases ch <;> cases y <;> first | rfl | exact absurd rfl h

/-- A transition takes the raw pair to the next one. -/
@[simp] theorem rawPair_turnOnce (next : Bit × Bit → Bit × Bit) (pull : Phase → Bit) (x : Level × Level) :
    rawPair pull (turnOnce next pull x) = next (rawPair pull x) := by
  simp only [turnOnce]
  apply Prod.ext
  · by_cases h : (next (rawPair pull x)).1 = (rawPair pull x).1
    · simp only [h, if_true]; rfl
    · simp only [h, if_false]; exact bitOf_levelOf _ _
  · by_cases h : (next (rawPair pull x)).2 = (rawPair pull x).2
    · simp only [h, if_true]; rfl
    · simp only [h, if_false]; exact bitOf_levelOf _ _

/-! The ticks of a script -/

@[simp] theorem tickLevels_nil (ch : Ch) : tickLevels ch [] = [] := rfl

@[simp] theorem tickLevels_cons_host (ch : Ch) (ms : List Move) : tickLevels ch (.host :: ms) = tickLevels ch ms := rfl

@[simp] theorem tickLevels_cons_tick (ch : Ch) (la lb : Level) (ms : List Move) :
    tickLevels ch (.tick ch la lb :: ms) = (la, lb) :: tickLevels ch ms := by simp [tickLevels]

theorem tickLevels_cons_tick_other {ch y : Ch} (h : y ≠ ch) (la lb : Level) (ms : List Move) :
    tickLevels ch (.tick y la lb :: ms) = tickLevels ch ms := by simp [tickLevels, h]

@[simp] theorem tickLevels_append (ch : Ch) (as bs : List Move) :
    tickLevels ch (as ++ bs) = tickLevels ch as ++ tickLevels ch bs := by simp [tickLevels]

@[simp] theorem tickLevels_envMoves (ch : Ch) (x : Level × Level) (n : Nat) :
    tickLevels ch (envMoves ch x n) = List.replicate n x := by
  induction n with
  | zero => rfl
  | succ n ih =>
    rw [List.replicate_succ, ← ih]
    exact tickLevels_cons_tick ch x.1 x.2 _

theorem tickLevels_envMoves_other {ch y : Ch} (h : y ≠ ch) (x : Level × Level) (n : Nat) :
    tickLevels ch (envMoves y x n) = [] := by
  induction n with
  | zero => rfl
  | succ n ih => exact (tickLevels_cons_tick_other h x.1 x.2 _).trans ih

/-! The parts of WellFormedEnv -/

/-- The first run is of the first level. -/
theorem runsOf_cons (y : Level) (ls : List Level) : ∃ n rest, runsOf (y :: ls) = (y, n) :: rest := by
  simp only [runsOf, List.foldr_cons]
  cases List.foldr consRun [] ls with
  | nil => exact ⟨1, [], rfl⟩
  | cons p rest =>
    simp only [consRun]
    split
    · next h => rw [h]; exact ⟨_, _, rfl⟩
    · exact ⟨_, _, rfl⟩

/-- The first run is `n` ticks long or longer exactly where the first `n` levels are the first one. -/
theorem le_firstRun_iff (ls : List Level) : ∀ (y : Level) (m : Nat) (rest : List (Level × Nat)) (n : Nat),
    runsOf (y :: ls) = (y, m) :: rest → (n ≤ m ↔ ∀ j, j < n → (y :: ls)[j]? = some y) := by
  induction ls with
  | nil =>
    intro y m rest n h
    obtain rfl : m = 1 := by simpa [runsOf, consRun] using (congrArg (fun l => (l.map Prod.snd).head?) h).symm
    refine ⟨fun hn j hj => by obtain rfl : j = 0 := by omega
                              rfl, fun H => ?_⟩
    by_contra hn
    simpa using H 1 (by omega)
  | cons x ls ih =>
    intro y m rest n h
    obtain ⟨k, q, hk⟩ := runsOf_cons x ls
    rw [show runsOf (y :: x :: ls) = consRun y ((x, k) :: q) from congrArg (consRun y) hk] at h
    simp only [consRun] at h
    split at h
    · next e =>
      subst e
      obtain ⟨rfl, -⟩ : k + 1 = m ∧ q = rest := by simpa using h
      refine ⟨fun hn j hj => ?_, fun H => ?_⟩
      · cases j with
        | zero => rfl
        | succ j => exact (ih y k q (n - 1) hk).1 (by omega) j (by omega)
      · have := (ih y k q (n - 1) hk).2 fun j hj => H (j + 1) (by omega)
        omega
    · next e =>
      obtain ⟨rfl, -⟩ : 1 = m ∧ (x, k) :: q = rest := by simpa using h
      refine ⟨fun hn j hj => by obtain rfl : j = 0 := by omega
                                rfl, fun H => ?_⟩
      by_contra hn
      exact e (by simpa using (H 1 (by omega)).symm)

/-- Every level that follows a change is held, of a list one level longer. -/
theorem heldFor_cons_cons (n : Nat) (x y : Level) (ls : List Level) :
    heldFor n (x :: y :: ls) = true ↔
      heldFor n (y :: ls) = true ∧ (x ≠ y → ∀ j, j < n → (y :: ls)[j]? = some y) := by
  obtain ⟨m, rest, h⟩ := runsOf_cons y ls
  rw [heldFor, heldFor, show runsOf (x :: y :: ls) = consRun x ((y, m) :: rest) from congrArg (consRun x) h, h]
  by_cases e : x = y
  · simp [consRun, e]
  · simp only [consRun, e, if_false, List.drop_succ_cons, List.drop_zero, List.all_cons, Bool.and_eq_true,
      decide_eq_true_eq, ne_eq, not_false_eq_true, forall_true_left, le_firstRun_iff ls y m rest n h]
    exact and_comm

theorem changesFrom_cons_cons (k : Nat) (x y : Level) (ls : List Level) :
    changesFrom k (x :: y :: ls) = (if x = y then [] else [k + 1]) ++ changesFrom (k + 1) (y :: ls) := rfl

/-- A change comes after the first level. -/
theorem lt_of_mem_changesFrom (ls : List Level) : ∀ k i, i ∈ changesFrom k ls → k < i := by
  induction ls with
  | nil => intro k i h; simp [changesFrom] at h
  | cons x ls ih =>
    intro k i h
    cases ls with
    | nil => simp [changesFrom] at h
    | cons y ls =>
      rw [changesFrom_cons_cons, List.mem_append] at h
      rcases h with h | h
      · split at h <;> simp at h; omega
      · have := ih _ _ h; omega

/-! A configured instance and its environment -/

/-- The decoder input of a configured instance: an undriven pin is pulled down, and no free value is taken. -/
theorem decIn_of_configured {prm : Params} {ch : Ch} {c : Channel} (h : Configured prm ch c) (p : Phase) (l : Level) :
    decIn prm ch p l c = (bitOf 0#1 l, c) := by
  have hp : c.pcr p = configuredPcr prm ch p := by cases p <;> simp [Channel.pcr, h.pcrA, h.pcrB]
  unfold decIn
  rw [if_pos (by rw [hp]; rfl)]
  cases l
  · rfl
  · rfl
  · simp [pinLevel, hp, configuredPcr, bitOf]

/-- The pair of a configured instance. -/
theorem pair_of_configured {prm : Params} {ch : Ch} {c : Channel} (h : Configured prm ch c) :
    c.pair = (c.foutA ^^^ prm.polAInit) ++ (c.foutB ^^^ prm.polBInit) := by
  simp [Channel.pair, h.qdctrl, configuredQdctrl]

end Sys2Proof.Machine
end

