-- ==== Sys2Proof/Laws/Step.lean ====
section
/-! SUPPORT. All that a step can do, said once: it is a tick, an operation, a reserved word, or a turn of a host that is
done. -/

namespace Sys2Proof.Machine

/-- All that a turn of the host can do. -/
theorem hostTurn_cases {s t : State} (h : hostTurn s = .next t) :
    (∃ w i, s.program[s.pc]? = some w ∧ decode w = .ok i ∧ t = execNext i s) ∨
    (∃ w e, s.program[s.pc]? = some w ∧ decode w = .error e ∧ t = reservedAccess s) ∨
    (s.program.length ≤ s.pc ∧ t = s) := by
  unfold hostTurn fetch at h
  cases hp : s.program[s.pc]? with
  | some w =>
    rw [hp] at h
    simp only [runWord] at h
    cases hd : decode w with
    | ok i =>
      rw [hd] at h
      simp only [exec_eq_next, Host.Outcome.next.injEq] at h
      exact .inl ⟨w, i, rfl, hd, h.symm⟩
    | error e =>
      rw [hd] at h
      simp only [Host.Outcome.next.injEq] at h
      exact .inr (.inl ⟨w, e, rfl, hd, h.symm⟩)
  | none =>
    rw [hp] at h
    simp only at h
    split at h
    · exact .inr (.inr ⟨by simpa using hp, by simpa using h.symm⟩)
    · cases h

/-- All that a step can do. `u` is the state as the turn's agent finds it: the script is without the turn's own move,
and everything else is as in `s`. -/
theorem step_cases {s t : State} (h : step s = .next t) :
    ∃ u : State, (∃ sc, u = { s with script := sc }) ∧
      ((∃ ch la lb, t = tick ch la lb u) ∨
        (∃ w i, u.program[u.pc]? = some w ∧ decode w = .ok i ∧ t = execNext i u) ∨
        (∃ w e, u.program[u.pc]? = some w ∧ decode w = .error e ∧ t = reservedAccess u) ∨
        (u.program.length ≤ u.pc ∧ t = u)) := by
  unfold step turn at h
  split at h
  · exact ⟨_, ⟨_, rfl⟩, .inl ⟨_, _, _, by simpa using h.symm⟩⟩
  · exact ⟨_, ⟨_, rfl⟩, .inr (hostTurn_cases h)⟩
  · exact ⟨s, ⟨s.script, rfl⟩, .inr (hostTurn_cases h)⟩

end Sys2Proof.Machine
end

