-- ==== Sys2Proof/Tests/Slice0.lean ====
section
/-! SUPPORT. Small tests and witnesses. Expected values are those of 95_test_vectors (the vector is named before each
test), or are worked out by hand from the rule named. A `witness_` theorem shows operands and a state that meet every
hypothesis of the statement it is named after, and one for each of its clauses. -/

namespace Sys2Proof.Tests

open Sys2Proof.Machine

/-! ## Helpers -/

/-- Both instances with the record `c`, everything else as after reset. -/
def mk (c : Channel) : State := { State.reset with ch0 := c, ch1 := c }

/-- Locked, FTMEN = 0. -/
def lockedC : Channel := { Channel.reset with wpen := 1#1 }

/-- Open. -/
def openC : Channel := { Channel.reset with mode := ⟨0#1, 0#2, 0#1, 0#1, 1#1⟩ }

/-- HalfOpen: the power-on state. -/
def halfC : Channel := Channel.reset

/-- A configured instance with the counter `v`, at rest on the raw pair 00. -/
def confC (prm : Params) (ch : Ch) (v : BitVec 16) : Channel :=
  { Channel.reset with
    pcrA := configuredPcr prm ch .a, pcrB := configuredPcr prm ch .b, wpen := 1#1
    mode := ⟨0#1, 0#2, 0#1, 0#1, 1#1⟩, filter := ⟨prm.fvalInit, prm.fvalInit⟩, mod := 0xFFFF#16
    qdctrl := configuredQdctrl prm, cnt := v, latch := some 0b00#2 }

/-- One tick of a channel-0 instance with the reference parameters (95, opening list). -/
def tickRef (la lb : Level) (c : Channel) : Channel := tickChannel Params.reference .ch0 la lb c

/-! ## WellFormed: a good term, and an ill-formed one for each check (30 R84) -/

theorem test_wellFormed_read : Fields.wellFormed ⟨0#1, 0#1, 0x01#6, 0#32⟩ = true := by decide
theorem test_wellFormed_write : Fields.wellFormed ⟨1#1, 1#1, 0x3F#6, 0xFFFFFFFF#32⟩ = true := by decide
/-- V-E-6, V-E-7, V-E-9: unassigned selectors. -/
theorem test_illFormed_selector :
    Fields.selAssigned ⟨0#1, 0#1, 0x07#6, 0#32⟩ = false ∧ Fields.wellFormed ⟨1#1, 0#1, 0x07#6, 0#32⟩ = false ∧
      Fields.wellFormed ⟨0#1, 0#1, 0x3D#6, 0#32⟩ = false := by decide
/-- V-E-8: a read with data. -/
theorem test_illFormed_readData :
    Fields.readDataZero ⟨0#1, 0#1, 0x01#6, 1#32⟩ = false ∧ Fields.wellFormed ⟨0#1, 0#1, 0x01#6, 1#32⟩ = false := by
  decide

/-! ## Decoding: a word for each constructor, written out from R81 (W, CH, SEL, DATA) and R82 (SEL) -/

/-- The pin-control family: SEL 0x3E and 0x3F. -/
theorem test_decode_pinControl :
    decode 0x3E00000000#40 = .ok (.rPcrA .ch0) ∧ decode 0xBE00000712#40 = .ok (.wPcrA .ch0 0x712#32) ∧
    decode 0x7F00000000#40 = .ok (.rPcrB .ch1) ∧ decode 0xFF00000612#40 = .ok (.wPcrB .ch1 0x612#32) := by decide
/-- The write-protect family: SEL 0x15 and 0x1D. -/
theorem test_decode_writeProtect :
    decode 0x1500000000#40 = .ok (.rMode .ch0) ∧ decode 0x9500000004#40 = .ok (.wMode .ch0 4#32) ∧
    decode 0x5D00000000#40 = .ok (.rFms .ch1) ∧ decode 0xDD00000040#40 = .ok (.wFms .ch1 0x40#32) := by decide
/-- The timer family: SEL 0x00, 0x02, 0x13. -/
theorem test_decode_timer :
    decode 0x0000000000#40 = .ok (.rSc .ch0) ∧ decode 0xC000000008#40 = .ok (.wSc .ch1 8#32) ∧
    decode 0x4200000000#40 = .ok (.rMod .ch1) ∧ decode 0x821234FFFF#40 = .ok (.wMod .ch0 0x1234FFFF#32) ∧
    decode 0x1300000000#40 = .ok (.rCntin .ch0) ∧ decode 0xD30000000A#40 = .ok (.wCntin .ch1 10#32) := by decide
/-- The channel registers: SEL 0x03 to 0x06. -/
theorem test_decode_channels :
    decode 0x0300000000#40 = .ok (.rC0sc .ch0) ∧ decode 0xC300000040#40 = .ok (.wC0sc .ch1 0x40#32) ∧
    decode 0x4400000000#40 = .ok (.rC0v .ch1) ∧ decode 0x84ABCD1234#40 = .ok (.wC0v .ch0 0xABCD1234#32) ∧
    decode 0x0500000000#40 = .ok (.rC1sc .ch0) ∧ decode 0x850000003D#40 = .ok (.wC1sc .ch0 0x3D#32) ∧
    decode 0x4600000000#40 = .ok (.rC1v .ch1) ∧ decode 0xC600000001#40 = .ok (.wC1v .ch1 1#32) := by decide
/-- The filter, the decoder and the counter: SEL 0x1E, 0x20, 0x01. -/
theorem test_decode_counting :
    decode 0x5E00000000#40 = .ok (.rFilter .ch1) ∧ decode 0x9E00000122#40 = .ok (.wFilter .ch0 0x122#32) ∧
    decode 0x2000000000#40 = .ok (.rQdctrl .ch0) ∧ decode 0xE0000000C1#40 = .ok (.wQdctrl .ch1 0xC1#32) ∧
    decode 0x4100000000#40 = .ok (.rCnt .ch1) ∧ decode 0x810000FFFB#40 = .ok (.wCnt .ch0 0xFFFB#32) := by decide
/-- V-E-7, V-E-9: rejected by name. -/
theorem test_decode_reserved :
    decode 0x8700000000#40 = .error (.reservedSelector 0x07#6) ∧
      decode 0x3D00000000#40 = .error (.reservedSelector 0x3D#6) := by decide
/-- The five bytes of V-E-4, first byte first, with a byte left over; four bytes are no word. -/
theorem test_decodeBytes :
    decodeBytes [0x95#8, 0#8, 0#8, 0#8, 4#8, 0xAA#8] = .ok (.wMode .ch0 4#32, [0xAA#8]) ∧
      decodeBytes [0x95#8, 0#8, 0#8, 0#8] = .error .tooShort := by decide

/-! ## Pin control -/

/-- V-P-1, in Locked. -/
theorem test_wPcrA_fields : (execNext (.wPcrA .ch0 0x712#32) (mk lockedC)).ch0.pcrA =
    ⟨0#4, 0#1, 7#3, 0#1, 0#1, 1#1, 0#1, 1#1, 0#1⟩ := by decide
/-- V-P-2: bit 24 is free. -/
theorem test_rPcrA_word : ∀ isf : Bit,
    (Pcr.toWord ⟨0#4, 0#1, 7#3, 0#1, 0#1, 1#1, 0#1, 1#1, 0#1⟩ isf) ∈ [0x712#32, 0x1000712#32] := by decide
/-- V-P-3: refused, and the field is stored all the same. -/
theorem test_wPcrA_irqc : (execNext (.wPcrA .ch0 0x90712#32) (mk halfC)).refusals = [.pinFeatureOutOfScope] ∧
    (execNext (.wPcrA .ch0 0x90712#32) (mk halfC)).ch0.pcrA.irqc = 9#4 := by decide
/-- V-P-4, V-P-5. -/
theorem test_wPcrB_refused : (execNext (.wPcrB .ch0 0x8712#32) (mk halfC)).refusals = [.pinFeatureOutOfScope] ∧
    (execNext (.wPcrB .ch1 0x12340612#32) (mk halfC)).refusals = [.pinFeatureOutOfScope] := by decide
/-- V-P-6, V-P-7, V-P-9: a pulled pin and a driven one. -/
theorem test_decIn_levels :
    (decIn Params.reference .ch0 .a .z { halfC with pcrA := Pcr.ofWord 0x712#32 }).1 = 0#1 ∧
    (decIn Params.reference .ch0 .a .z { halfC with pcrA := Pcr.ofWord 0x713#32 }).1 = 1#1 ∧
    (decIn Params.reference .ch0 .a .high { halfC with pcrA := Pcr.ofWord 0x712#32 }).1 = 1#1 := by decide
/-- V-P-8, V-P-10: each takes one free value. -/
theorem test_decIn_draws :
    (decIn Params.reference .ch0 .a .z { halfC with pcrA := Pcr.ofWord 0x710#32 }).2.draws = 1 ∧
    (decIn Params.reference .ch0 .a .high { halfC with pcrA := Pcr.ofWord 0x112#32 }).2.draws = 1 := by decide

/-! ## Write protection -/

/-- V-G-1: ignored and recorded. -/
theorem test_gate_locked : (execNext (.wMod .ch0 0xFFFF#32) (mk lockedC)).ch0.mod = 0#16 ∧
    (execNext (.wMod .ch0 0xFFFF#32) (mk lockedC)).hist =
      [.lockedWrite .ch0 .mod, .busOp .ch0 .write .mod 0xFFFF#32] := by decide
/-- V-G-5 and V-G-6. -/
theorem test_wMode_unlock : (execNext (.wMode .ch0 5#32) (mk halfC)).ch0.mode.ftmen = 1#1 ∧
    (execNext (.wMode .ch0 5#32) (mk lockedC)).ch0.mode.ftmen = 0#1 ∧
    (execNext (.wMode .ch0 5#32) (mk lockedC)).ch0.wpen = 0#1 ∧
    (execNext (.wMode .ch0 5#32) (mk lockedC)).hist = [.busOp .ch0 .write .mode 5#32] := by decide
/-- V-G-7 and V-M-5. -/
theorem test_wMode_blocked_and_refused :
    (execNext (.wMode .ch0 1#32) (mk lockedC)).hist = [.lockedWrite .ch0 .mode, .busOp .ch0 .write .mode 1#32] ∧
    (execNext (.wMode .ch0 0x85#32) (mk openC)).refusals = [.interruptOutOfScope] ∧
    (execNext (.wMode .ch0 0x84#32) (mk lockedC)).refusals = [] := by decide
/-- V-G-9, V-G-10, V-G-11. -/
theorem test_wFms : (execNext (.wFms .ch0 0x40#32) (mk openC)).ch0 = { openC with wpen := 1#1 } ∧
    (execNext (.wFms .ch0 0#32) (mk openC)).ch0 = openC ∧
    (execNext (.wFms .ch0 0x40#32) (mk lockedC)).ch0 = lockedC := by decide
/-- V-M-7, V-M-8, V-M-9: bit 1 is free. -/
theorem test_rMode_word : ∀ x : Bit, halfC.mode.toWord halfC.wpen x ∈ [4#32, 6#32] ∧
    openC.mode.toWord openC.wpen x ∈ [5#32, 7#32] ∧ openC.mode.toWord 1#1 x ∈ [1#32, 3#32] := by decide
/-- V-M-10, V-M-11: bit 6. -/
theorem test_rFms_word : ∀ (x : Bit) (y : BitVec 6),
    field (fmsWord 1#1 x y) 6 1 = 1#1 ∧ field (fmsWord 0#1 x y) 6 1 = 0#1 := by decide

/-! ## Timer configuration -/

/-- V-C-1: bits 31:16 ignored. -/
theorem test_wMod : (execNext (.wMod .ch0 0x1234FFFF#32) (mk openC)).ch0.mod = 0xFFFF#16 := by decide
/-- V-C-2. -/
theorem test_rMod : (execNext (.rMod .ch0) (mk { openC with mod := 0xFFFF#16 })).results = [0xFFFF#32] := by decide
/-- V-C-3. -/
theorem test_wCntin : (execNext (.wCntin .ch0 0xA#32) (mk openC)).ch0.cntin = 0x000A#16 := by decide
theorem test_rCntin : (execNext (.rCntin .ch1) (mk { openC with cntin := 0x8001#16 })).results = [0x8001#32] := by decide
/-- V-C-4, V-C-7. -/
theorem test_wSc_fields : (execNext (.wSc .ch0 8#32) (mk openC)).ch0.sc = ⟨0#1, 0#1, 1#2, 0#3⟩ ∧
    (execNext (.wSc .ch0 0x80#32) (mk openC)).ch0.sc = ⟨0#1, 0#1, 0#2, 0#3⟩ := by decide
/-- V-C-5, V-C-6. -/
theorem test_wSc_enable : (execNext (.wSc .ch0 0x40#32) (mk openC)).refusals = [.interruptOutOfScope] ∧
    (execNext (.wSc .ch0 0x40#32) (mk lockedC)).refusals = [] := by decide
/-- V-C-8. -/
theorem test_wC0sc : (execNext (.wC0sc .ch0 0x40#32) (mk openC)).refusals = [.interruptOutOfScope] ∧
    (execNext (.wC0sc .ch0 0x40#32) (mk openC)).ch0.c0sc.chie = 1#1 := by decide
/-- V-C-9. -/
theorem test_wC1sc : (execNext (.wC1sc .ch0 0x3D#32) (mk openC)).ch0.c1sc = ⟨0#1, 1#1, 1#1, 1#1, 1#1, 1#1⟩ := by decide
/-- V-C-10: bit 7 is free. -/
theorem test_rC1sc_word : ∀ x : Bit,
    (Cnsc.toWord ⟨0#1, 1#1, 1#1, 1#1, 1#1, 1#1⟩ x) ∈ [0x3D#32, 0xBD#32] := by decide
/-- V-C-11. -/
theorem test_wC0v : (execNext (.wC0v .ch0 0xABCD1234#32) (mk openC)).ch0.c0v = 0x1234#16 := by decide
theorem test_rC0v : (execNext (.rC0v .ch0) (mk { openC with c0v := 0x1234#16, c1v := 9#16 })).results = [0x1234#32] := by
  decide
/-- R154, R155: C1V, and not C0V. -/
theorem test_wC1v : (execNext (.wC1v .ch0 0xABCD1234#32) (mk openC)).ch0.c1v = 0x1234#16 ∧
    (execNext (.wC1v .ch0 0xABCD1234#32) (mk openC)).ch0.c0v = 0#16 := by decide
theorem test_rC1v : (execNext (.rC1v .ch1) (mk { openC with c0v := 9#16, c1v := 0xFEDC#16 })).results = [0xFEDC#32] := by
  decide
/-- V-C-12, V-C-13. -/
theorem test_wFilter : (execNext (.wFilter .ch0 0x122#32) (mk openC)).ch0.filter = ⟨2#4, 2#4⟩ ∧
    (execNext (.wFilter .ch0 0x30#32) (mk openC)).ch0.filter = ⟨3#4, 0#4⟩ := by decide
theorem test_rFilter : (execNext (.rFilter .ch0) (mk { openC with filter := ⟨3#4, 1#4⟩ })).results = [0x31#32] := by
  decide
/-- V-C-14, V-C-15. -/
theorem test_wQdctrl : (execNext (.wQdctrl .ch0 0xC1#32) (mk openC)).ch0.qdctrl = ⟨1#1, 1#1, 0#1, 0#1, 0#1, 1#1⟩ ∧
    (execNext (.wQdctrl .ch0 0xC9#32) (mk openC)).ch0.qdctrl.quadmode = 1#1 := by decide
/-- V-C-14: bits 2 and 1 are free. -/
theorem test_rQdctrl_word : ∀ x y : Bit,
    (Qdctrl.toWord ⟨1#1, 1#1, 0#1, 0#1, 0#1, 1#1⟩ x y) ∈ [0xC1#32, 0xC3#32, 0xC5#32, 0xC7#32] := by decide

/-! ## Counter access -/

/-- V-E-3, V-CA-11. -/
theorem test_wCnt : (execNext (.wCnt .ch1 0xFFFF1234#32) (mk halfC)).ch1.cnt = 0x1234#16 ∧
    (execNext (.wCnt .ch0 7#32) (mk lockedC)).ch0.cnt = 7#16 := by decide
/-- V-CA-12, and that `pc` and the history go on. -/
theorem test_rCnt : (execNext (.rCnt .ch0) (mk { lockedC with cnt := 0xFFFB#16 })).results = [0xFFFB#32] ∧
    (execNext (.rCnt .ch0) (mk lockedC)).pc = 1 ∧
    (execNext (.rCnt .ch0) (mk lockedC)).hist = [.busOp .ch0 .read .cnt 0#32] := by decide
/-- V-CA-1 to V-CA-9: the words of RESET. -/
theorem test_resetOp_words : encode (resetOp .ch0 (-5)) = 0x810000FFFB#40 ∧ encode (resetOp .ch0 32767) = 0x8100007FFF#40 ∧
    encode (resetOp .ch0 (-32768)) = 0x8100008000#40 ∧ encode (resetOp .ch1 1) = 0xC100000001#40 ∧
    encode (resetOp .ch0 65539) = 0x8100000003#40 ∧ encode (resetOp .ch0 (-32769)) = 0x8100007FFF#40 := by decide
/-- V-CA-1 to V-CA-4: the value of READ. -/
theorem test_readValue : readValue 0xFFFB#32 = -5 ∧ readValue 0x7FFF#32 = 32767 ∧ readValue 0x8000#32 = -32768 ∧
    readValue 0xFFFF#32 = -1 := by decide
/-- V-CA-10. -/
theorem test_cntWrite_loadCntin : (cntWrite .loadCntin .ch0 0xFFFB#32 (mk halfC)).ch0.cnt = 0#16 := by decide

/-! ## The tick -/

/-- V-F-1, V-F-2: the seventh and the eighth differing sample. -/
theorem test_filter_threshold :
    (filterPhase Params.reference .ch0 .a 1#1 { confC Params.reference .ch0 0#16 with fcntA := 6 }).foutA = 0#1 ∧
    (filterPhase Params.reference .ch0 .a 1#1 { confC Params.reference .ch0 0#16 with fcntA := 6 }).fcntA = 7 ∧
    (filterPhase Params.reference .ch0 .a 1#1 { confC Params.reference .ch0 0#16 with fcntA := 7 }).foutA = 1#1 ∧
    (filterPhase Params.reference .ch0 .a 1#1 { confC Params.reference .ch0 0#16 with fcntA := 7 }).fcntA = 0 := by decide
/-- V-F-6, V-F-7: pass-through. -/
theorem test_filter_passThrough : (filterPhase Params.reference .ch0 .a 1#1 halfC).foutA = 1#1 ∧
    (filterPhase Params.reference .ch0 .b 1#1
      { confC Params.reference .ch0 0#16 with filter := ⟨0#4, 2#4⟩ }).foutB = 1#1 := by decide
/-- V-QD-1 to V-QD-4, one of each. -/
theorem test_qd : qd 0b00#2 0b10#2 = .up ∧ qd 0b11#2 0b01#2 = .up ∧ qd 0b00#2 0b01#2 = .down ∧
    qd 0b11#2 0b10#2 = .down ∧ qd 0b10#2 0b10#2 = .zero ∧ qd 0b01#2 0b10#2 = .ill := by decide
/-- V-QD-6, V-QD-7: the polarities, on the filtered change 00 to 10. -/
theorem test_pair_polarity :
    ({ halfC with foutA := 1#1, qdctrl := ⟨0#1, 0#1, 1#1, 1#1, 0#1, 1#1⟩ } : Channel).pair = 0b01#2 ∧
    ({ halfC with foutA := 1#1, qdctrl := ⟨0#1, 0#1, 1#1, 0#1, 0#1, 1#1⟩ } : Channel).pair = 0b00#2 := by decide
/-- V-CU-1 to V-CU-4: free running. -/
theorem test_count_wraps :
    (count .ch0 .up (confC Params.reference .ch0 0xFFFF#16)).cnt = 0#16 ∧
    (count .ch0 .down (confC Params.reference .ch0 0#16)).cnt = 0xFFFF#16 ∧
    (count .ch0 .up (confC Params.reference .ch0 0x7FFF#16)).cnt = 0x8000#16 ∧
    (count .ch0 .down (confC Params.reference .ch0 0x8000#16)).cnt = 0x7FFF#16 := by decide
/-- V-CU-7 to V-CU-9, V-CU-12: the reload range. -/
theorem test_count_reload :
    (count .ch0 .up { halfC with cntin := 10#16, mod := 20#16, cnt := 20#16 }).cnt = 10#16 ∧
    (count .ch0 .down { halfC with cntin := 10#16, mod := 20#16, cnt := 10#16 }).cnt = 20#16 ∧
    (count .ch0 .up { halfC with cntin := 10#16, mod := 20#16, cnt := 15#16 }).cnt = 16#16 ∧
    (count .ch0 .up { halfC with cntin := 0#16, mod := 0xFF#16, cnt := 0xFF#16 }).cnt = 0#16 := by decide
/-- V-CU-10, V-CU-11, V-CU-6: each takes one free value. -/
theorem test_count_draws :
    (count .ch0 .up { halfC with cntin := 10#16, mod := 20#16, cnt := 5#16 }).draws = 1 ∧
    (count .ch0 .up { halfC with cntin := 20#16, mod := 10#16, cnt := 15#16 }).draws = 1 ∧
    (count .ch0 .ill (confC Params.reference .ch0 0x1234#16)).draws = 1 := by decide
/-- Program 4: the eighth tick of a held level counts; V-CM-3: a Locked power-on instance holds its counter. -/
theorem test_tick_counts :
    (tickRef .high .low { confC Params.reference .ch0 0#16 with fcntA := 7 }).cnt = 1#16 ∧
    (tickRef .high .low { confC Params.reference .ch0 0#16 with fcntA := 6 }).cnt = 0#16 ∧
    (tickRef .high .low
      { lockedC with cnt := 3#16, pcrA := Pcr.ofWord 0x712#32, pcrB := Pcr.ofWord 0x712#32 }).cnt = 3#16 := by decide
/-- V-CM-2, V-CM-4, V-CM-5, V-CM-6: the counter becomes a free value. -/
theorem test_tick_draws :
    (tickRef .low .low { confC Params.reference .ch0 0#16 with mode := Mode.reset }).draws = 1 ∧
    (countTick .ch0 .up { halfC with sc := ⟨0#1, 0#1, 1#2, 0#3⟩ }).draws = 1 ∧
    (countTick .ch0 .up
      { confC Params.reference .ch0 0#16 with qdctrl := ⟨1#1, 1#1, 0#1, 0#1, 1#1, 1#1⟩ }).draws = 1 ∧
    (countTick .ch0 .up { confC Params.reference .ch0 0#16 with sc := ⟨0#1, 0#1, 2#2, 0#3⟩ }).draws = 1 := by decide
/-- Every undriven pin pulled down, and the levels "raw 00" that the programs of part 3 start from. -/
def pullDown : Ch → Phase → Bit := fun _ _ => 0#1
def raw00 : ScriptLevels := ⟨(.low, .low), (.low, .low)⟩

/-- Program 2's directives, with h = 1: FWD goes 10, FWD goes on to 11, REV goes back 10, 00; READ takes a host turn. -/
theorem test_script_threads :
    scriptOf Params.reference pullDown raw00 [.fwd .ch1 1 1, .read .ch1, .fwd .ch1 1 1, .rev .ch1 2 1] =
      [.tick .ch1 .high .low, .host, .tick .ch1 .high .high, .tick .ch1 .high .low, .tick .ch1 .low .low] ∧
    levelsAfter pullDown raw00 [.fwd .ch1 1 1, .fwd .ch1 1 1] = ⟨(.low, .low), (.high, .high)⟩ ∧
    scriptOf Params.reference pullDown raw00 [.env .ch0 .z .low 1, .fwd .ch0 1 1, .rev .ch0 1 1] =
      [.tick .ch0 .z .low, .tick .ch0 .high .low, .tick .ch0 .low .low] := by decide
/-- Program 2's words: INIT, then RESET and READ. -/
theorem test_program_words :
    (programOf Params.reference [.init .ch1, .env .ch1 .low .low 1, .reset .ch1 32767, .fwd .ch1 1 8, .read .ch1]).drop 14 =
      [0xE0000000C1#40, 0xDD00000040#40, 0xC100007FFF#40, 0x4100000000#40] := by decide
/-- R283: steps held for T = 8 ticks meet it; two steps held for 3 do not, nor do both phases changing on one tick, nor
does program 4 with its 7-tick pulse. -/
theorem test_wellFormedEnv :
    let env := fun ls => wellFormedEnv Params.reference .ch0 (.low, .low) (scriptOf Params.reference pullDown raw00 ls)
    env [.env .ch0 .low .low 1, .fwd .ch0 2 8, .rev .ch0 1 8] = true ∧
    env [.env .ch0 .low .low 1, .fwd .ch0 2 3] = false ∧ env [.env .ch0 .high .high 8] = false ∧
    env [.env .ch0 .high .low 7, .env .ch0 .low .low 8] = false := by decide
/-- R289: program 1's settling tick, after write 14; none; and a settling tick on other levels than the first one after
write 15. -/
theorem test_settledAtEnable :
    let ops := (initOps Params.reference .ch0).map Act.op
    let run := fun (pre : List Act) (post : List Act) => settledAtEnable .ch0 (ops.take 14 ++ pre ++ ops.drop 14 ++ post)
    run [.tick .ch0 .low .low] [.tick .ch0 .low .low] = true ∧ run [] [.tick .ch0 .low .low] = false ∧
      run [.tick .ch0 .low .low] [.tick .ch0 .high .low] = false := by decide

/-! ## The step -/

/-- A step runs the word at `pc`: V-CA-1's word. -/
theorem test_step_word : (match step (State.reset.withFetchWord 40 0x810000FFFB) with
    | .next t => t.ch0.cnt == 0xFFFB#16 && t.pc == 1
    | .fault _ => false
    | .refused _ => false) = true := by decide
/-- V-E-6: a reserved word is refused, as a mark, and the host goes on. -/
theorem test_step_reserved : step (State.reset.withFetchWord 40 0x0700000000) =
    .next { State.reset with program := [0x0700000000#40], pc := 1, refusals := [.reservedEncoding] } := by rfl
/-- R288: with nothing left to do the run has ended. -/
theorem test_step_end : step State.reset = .fault .endOfRun := by rfl
/-- 20 R62: the bus address of MODE on channel 1, and what an access there is. -/
theorem test_bus : busAddr BusMap.reference .ch1 .mode = 0x400B8054#32 ∧
    busInstr BusMap.reference ⟨0x400B8054#32, 4, .write, 5#32⟩ = some (.wMode .ch1 5#32) ∧
    busInstr BusMap.reference ⟨0x400B8055#32, 4, .read, 0#32⟩ = none ∧
    busInstr BusMap.reference ⟨0x400B8054#32, 2, .read, 0#32⟩ = none := by decide
/-- 60 R263: a power cycle meets the launch premise. -/
theorem test_powerCycle : powerCycle [0x0100000000#40] [] = { State.reset with program := [0x0100000000#40] } ∧
    powerOnLaunch (powerCycle [0x0100000000#40] []) = true := by decide

/-! ## Witnesses: encoding and the step -/

/-- DecodeEncodeAllInstr has no hypothesis; EncodeOfDecodedWord: a word that decodes. -/
theorem witness_EncodeOfDecodedWord : decode 0xC1FFFF1234#40 = .ok (.wCnt .ch1 0xFFFF1234#32) := by decide
/-- ReservedWordsAreRefused, second clause: a word that decodes to nothing. -/
theorem witness_ReservedWordsAreRefused : ¬ ∃ i, decode 0x0100000001#40 = .ok i := by
  rintro ⟨i, h⟩
  have : decode 0x0100000001#40 = .error (.readWithData 1#32) := by decide
  rw [this] at h; cases h
/-- DecodeFollowsOpcodeTable: both sides hold of V-E-2, and neither of a reserved word. -/
theorem witness_DecodeFollowsOpcodeTable :
    0x4100000000#40 &&& (Instr.rCnt .ch0).mask = (Instr.rCnt .ch0).matchBits ∧
      0x0700000000#40 &&& (Instr.rCnt .ch0).mask ≠ (Instr.rCnt .ch0).matchBits := by decide
/-- StepRunsDecodedOperation: a program, a word that decodes, and both kinds of script. -/
theorem witness_StepRunsDecodedOperation :
    ({ State.reset with program := [0x0100000000#40], script := [.host] } : State).program[0]? = some 0x0100000000#40 ∧
      decode 0x0100000000#40 = .ok (.rCnt .ch0) ∧
      ({ State.reset with program := [0x0100000000#40] } : State).script = [] := by decide
/-- StepTakesScriptedTick. -/
theorem witness_StepTakesScriptedTick :
    ({ State.reset with script := [.tick .ch1 .high .z, .host] } : State).script = .tick .ch1 .high .z :: [.host] := by
  decide
/-- OnlyTheEndOfARunStops: a state on each side. -/
theorem witness_OnlyTheEndOfARunStops :
    (State.reset.program.length ≤ State.reset.pc ∧ ∀ m ∈ State.reset.script, m.isTick = false) ∧
    ¬ (({ State.reset with script := [.host, .tick .ch0 .low .low] } : State).program.length ≤ 0 ∧
      ∀ m ∈ [Move.host, .tick .ch0 .low .low], m.isTick = false) := by decide

/-! ## Witnesses: pin control and write protection -/

/-- PinControlWrites: data that is refused at each end of the two fields, and data that is not. -/
theorem witness_PinControlWrites :
    (0x10000#32).extractLsb' 16 4 ≠ 0#4 ∧ (0x80000#32).extractLsb' 16 4 ≠ 0#4 ∧ (0x8000#32).extractLsb' 15 1 = 1#1 ∧
      (0x107FFF#32).extractLsb' 16 4 = 0#4 ∧ (0x107FFF#32).extractLsb' 15 1 = 0#1 := by decide
/-- PinLevelOfEnvironment: the pull enabled and not. -/
theorem witness_PinLevelOfEnvironment :
    (({ halfC with pcrA := Pcr.ofWord 0x713#32 } : Channel).pcr .a).pe = 1#1 ∧ (halfC.pcr .b).pe = 0#1 := by decide
/-- DecoderInputRouting: routed and not. -/
theorem witness_DecoderInputRouting :
    (({ halfC with pcrA := Pcr.ofWord 0x712#32 } : Channel).pcr .a).mux = Params.reference.altQd .ch0 .a ∧
      (halfC.pcr .a).mux ≠ Params.reference.altQd .ch0 .a := by decide
/-- ModeWrite: both lock states, and both values of each bit it names. -/
theorem witness_ModeWrite : ((mk lockedC).chan .ch0).wpen = 1#1 ∧ ((mk halfC).chan .ch1).wpen = 0#1 ∧
    (4#32).extractLsb' 2 1 = 1#1 ∧ (3#32).extractLsb' 2 1 = 0#1 ∧ (0x80#32).extractLsb' 7 1 = 1#1 := by decide
/-- ReversedHandshakeLeavesHalfOpen, LockedStaysLocked, SkippedHandshakeIsIgnored: a Locked instance; and acts without
the unlock write, a MODE write among them. -/
theorem witness_LockedStaysLocked : Locked ((mk lockedC).chan .ch0) ∧
    ∀ i, Act.op i ∈ [Act.op (.wMode .ch0 0xFB#32), .tick .ch0 .high .low, .op (.wMode .ch1 4#32), .op (.wMod .ch0 1#32)] →
      unlocks .ch0 i = false := by
  refine ⟨rfl, ?_⟩
  simp only [List.mem_cons, Act.op.injEq, List.not_mem_nil, or_false, reduceCtorEq, false_or]
  rintro i (rfl | rfl | rfl) <;> decide
/-- The gated writes (SixteenBitWrites, StatusControlWrites, FilterAndDecoderWrites): the three lock states. -/
theorem witness_GatedWriteOf :
    Locked ((mk lockedC).chan .ch0) ∧ Opened ((mk openC).chan .ch1) ∧ HalfOpen ((mk halfC).chan .ch0) :=
  ⟨rfl, ⟨rfl, rfl⟩, ⟨rfl, rfl⟩⟩
/-- StatusControlWrites: data with bit 6 set, and all data but bit 6. -/
theorem witness_StatusControlWrites :
    (0x40#32).extractLsb' 6 1 = 1#1 ∧ (0xFFFFFFBF#32).extractLsb' 6 1 = 0#1 := by decide

/-! ## Witnesses: counter access and the tick -/

/-- ResetThenReadGivesValue: both ends of the range. -/
theorem witness_ResetThenReadGivesValue :
    ((-32768 : Int) ≤ -32768 ∧ (-32768 : Int) ≤ 32767) ∧ ((-32768 : Int) ≤ 32767 ∧ (32767 : Int) ≤ 32767) := by decide
/-- RepeatedReadsAgree: acts that leave the counter of channel 0 changed by nothing. -/
theorem witness_RepeatedReadsAgree :
    let s1 := execNext (readOp .ch0) State.reset
    ((runActs [.tick .ch1 .high .low, .op (.wCnt .ch1 7#32)] s1).chan .ch0).cnt = (s1.chan .ch0).cnt := by rfl
/-- PulseFilter: off (both ways), settled, below the threshold 8, at both ends of the band, and at its end; FILTER_SLACK
is 2. -/
theorem witness_PulseFilter :
    let prm := { Params.reference with filterSlack := 2 }
    let c := confC prm .ch0 0#16
    let thr := prm.filterScale * c.filter.ch0fval.toNat
    let n := fun k => ({ c with fcntA := k } : Channel).fcntA + 1
    (c.qdctrl.phafltren = 1#1 ∧ c.filter.ch0fval ≠ 0#4) ∧ ¬ (halfC.qdctrl.phafltren = 1#1) ∧
      ¬ (({ c with filter := ⟨0#4, 2#4⟩ } : Channel).filter.ch1fval ≠ 0#4) ∧
      (0#1 = c.foutA ∧ 1#1 ≠ c.foutA) ∧ n 6 < thr ∧ (thr ≤ n 7 ∧ n 7 < thr + prm.filterSlack) ∧
      (thr ≤ n 8 ∧ n 8 < thr + prm.filterSlack) ∧ thr + prm.filterSlack ≤ n 9 := by decide
/-- LatchFollowsThePair: the first tick of an Active and Exact instance. -/
theorem witness_LatchFollowsThePair :
    let c : Channel := { confC Params.reference .ch0 0#16 with latch := none }
    c.latch = none ∧ c.active = true ∧ c.exact = true := by decide
/-- CounterUpdate: free running; in the range 10 to 20 at its two ends; out of it on each side; an empty range. -/
theorem witness_CounterUpdate :
    let f := confC Params.reference .ch0 0#16
    let r := fun v : BitVec 16 => ({ halfC with cntin := 10#16, mod := 20#16, cnt := v } : Channel)
    let e : Channel := { halfC with cntin := 20#16, mod := 10#16, cnt := 15#16 }
    let within := fun c : Channel => c.cntin.toNat ≤ c.cnt.toNat ∧ c.cnt.toNat ≤ c.mod.toNat
    (f.cntin = 0#16 ∧ f.mod = 0xFFFF#16) ∧ ¬ ((r 0#16).cntin = 0#16 ∧ (r 0#16).mod = 0xFFFF#16) ∧
      ¬ (e.cntin = 0#16 ∧ e.mod = 0xFFFF#16) ∧ within (r 10#16) ∧ within (r 20#16) ∧ ¬ within (r 9#16) ∧
      ¬ within (r 21#16) ∧ ¬ within e := by decide
/-- CounterModeOfATick: a record for each clause (V-CM-1, V-CM-5, V-CM-3, V-CM-4 and V-CM-2). -/
theorem witness_CounterModeOfATick :
    let c := confC Params.reference .ch0 0#16
    let q : Channel := { c with qdctrl := ⟨1#1, 1#1, 0#1, 0#1, 1#1, 1#1⟩ }
    let f : Channel := { c with mode := Mode.reset }
    let k : Channel := { halfC with sc := ⟨0#1, 0#1, 1#2, 0#3⟩ }
    (c.active = true ∧ c.exact = true) ∧ (q.active = true ∧ q.exact = false) ∧
      (halfC.qdctrl.quaden = 0#1 ∧ halfC.sc.clks = 0#2) ∧
      (k.active = false ∧ ¬ (k.qdctrl.quaden = 0#1 ∧ k.sc.clks = 0#2)) ∧
      (f.active = false ∧ ¬ (f.qdctrl.quaden = 0#1 ∧ f.sc.clks = 0#2)) := by decide

/-- `confC` is configured, whatever the parameters. -/
theorem confC_configured (prm : Params) (ch : Ch) (v : BitVec 16) : Configured prm ch (confC prm ch v) :=
  ⟨rfl, rfl, rfl, rfl, rfl, rfl, rfl, rfl, rfl, rfl, rfl, rfl, rfl⟩

/-- ConfiguredTickCounts and WraparoundBothReadings: a configured instance at each end of the range, with a tick whose
pair makes a forward, a reverse and no change. -/
theorem witness_ConfiguredTickCounts :
    let c := { confC Params.reference .ch0 0x7FFF#16 with fcntA := 7, fcntB := 7 }
    Configured Params.reference .ch0 c ∧ c.latch = some 0b00#2 ∧
      qd 0b00#2 (tickRef .high .low c).pair = .up ∧ qd 0b00#2 (tickRef .low .high c).pair = .down ∧
      qd 0b00#2 (tickRef .low .low c).pair = .zero ∧
      sint16 0x7FFF#16 = 32767 ∧ sint16 0x8000#16 = -32768 := by
  refine ⟨⟨rfl, rfl, rfl, rfl, rfl, rfl, rfl, rfl, rfl, rfl, rfl, rfl, rfl⟩, rfl, ?_⟩; decide
/-- WellFormedEnvIsCountedExactly: a settled, configured instance and a script that meets the premise, with two steps, one
of them to an undriven pin. -/
theorem witness_WellFormedEnvIsCountedExactly :
    let c := confC Params.reference .ch0 0xFFFF#16
    let script := scriptOf Params.reference pullDown raw00
      [.env .ch0 .low .low 1, .fwd .ch0 1 8, .read .ch0, .env .ch0 .z .low 8]
    Configured Params.reference .ch0 c ∧ Settled c (.low, .low) ∧ Params.reference.fvalInit ≠ 0#4 ∧
      0 < Params.reference.filterScale ∧ wellFormedEnv Params.reference .ch0 (.low, .low) script = true :=
  ⟨confC_configured _ _ _, ⟨rfl, rfl, rfl, rfl, rfl⟩, by decide, by decide, by decide⟩
/-- DirectivesFollowTheCycle, last clause: lines whose transitions are all held. -/
theorem witness_DirectivesFollowTheCycle : ∀ ch k,
    Line.fwd ch k 0 ∉ [Line.fwd .ch0 2 8, .rev .ch1 1 1] ∧ Line.rev ch k 0 ∉ [Line.fwd .ch0 2 8, .rev .ch1 1 1] := by
  simp
/-- ShortPulsesAreRejected and HeldLevelCountsAtThreshold: a configured instance at rest; a pulse of 7 ticks, T = 8. -/
theorem witness_ShortPulsesAreRejected :
    let c := confC Params.reference .ch0 5#16
    Configured Params.reference .ch0 c ∧ c.fcntA = 0 ∧ c.fcntB = 0 ∧ c.latch = some c.pair ∧
      7 < Params.reference.filterScale * Params.reference.fvalInit.toNat ∧ Params.reference.filterSlack = 0 ∧
      Params.reference.fvalInit ≠ 0#4 ∧ 0 < Params.reference.filterScale := by
  refine ⟨confC_configured _ _ _, ?_⟩; decide

/-! ## Witnesses: initialization, launch, invariants and the bus -/

/-- InitReachesConfigured, both clauses: INIT with ticks between, and, for the first clause, an operation of the other
instance too. -/
theorem witness_InitReachesConfigured :
    let ops := (initOps Config.params .ch0).map Act.op
    let alone := ops.take 5 ++ [.tick .ch0 .low .z, .tick .ch1 .high .low] ++ ops.drop 5
    (opsOn .ch0 alone = initOps Config.params .ch0 ∧ ∀ i, Act.op i ∈ alone → i.channel = .ch0) ∧
      opsOn .ch0 (ops.take 7 ++ [.op (.wMode .ch1 4#32)] ++ ops.drop 7) = initOps Config.params .ch0 := by
  refine ⟨⟨rfl, ?_⟩, rfl⟩
  have h : ∀ i ∈ initOps Config.params .ch0, i.channel = .ch0 := by
    simp only [initOps, List.cons_append, List.nil_append, List.mem_cons, List.not_mem_nil, or_false]
    rintro i (rfl | rfl | rfl | rfl | rfl | rfl | rfl | rfl | rfl | rfl | rfl | rfl | rfl | rfl | rfl | rfl) <;> rfl
  intro i hi
  simp only [List.mem_append, List.mem_cons, reduceCtorEq, List.not_mem_nil, or_false] at hi
  rcases hi with hi | hi
  · obtain ⟨j, hj, e⟩ := List.mem_map.1 (List.mem_of_mem_take hi)
    injection e with e; exact e ▸ h j hj
  · obtain ⟨j, hj, e⟩ := List.mem_map.1 (List.mem_of_mem_drop hi)
    injection e with e; exact e ▸ h j hj
/-- InitZeroesCounter: INIT with its ticks before write 14 only. -/
theorem witness_InitZeroesCounter :
    let ops := (initOps Config.params .ch0).map Act.op
    let acts := ops.take 13 ++ [.tick .ch0 .high .low] ++ ops.drop 13
    opsOn .ch0 acts = initOps Config.params .ch0 ∧ actLevels .ch0 (afterOps .ch0 14 acts) = [] := ⟨rfl, rfl⟩
/-- ConfiguredIsKept: a configured state, and acts with a tick, a pin-control write of PCR_INIT and a MODE write. -/
theorem witness_ConfiguredIsKept :
    Configured Config.params .ch0 ((mk (confC Config.params .ch0 9#16)).chan .ch0) ∧
      ∀ i, Act.op i ∈ [Act.tick .ch0 .high .high, .op (.wPcrA .ch0 (pcrInit Config.params .ch0 .a)),
          .op (.wMode .ch0 1#32), .op (.wCnt .ch0 7#32)] →
        unlocks .ch0 i = false ∧ rewritesPins Config.params .ch0 i = false := by
  refine ⟨confC_configured _ _ _, ?_⟩
  simp only [List.mem_cons, Act.op.injEq, List.not_mem_nil, or_false, reduceCtorEq, false_or]
  rintro i (rfl | rfl | rfl)
  · exact ⟨rfl, by simp [rewritesPins]⟩
  · exact ⟨by decide, rfl⟩
  · exact ⟨rfl, rfl⟩
/-- PowerOnCounterHeld: a power-on launch, with the unspecified fields at other values than reset's. -/
theorem witness_PowerOnCounterHeld :
    powerOnLaunch (mk { Channel.reset with pcrA := ⟨0#4, 0#1, 0#3, 1#1, 1#1, 1#1, 1#1, 1#1, 1#1⟩, foutB := 1#1 }) = true := by
  decide
/-- LaunchOutOfPremiseIsRefused: a state that meets the premise, and one that breaks it in one bit. -/
theorem witness_LaunchOutOfPremiseIsRefused : launchPremise (mk lockedC) = true ∧
    launchPremise { mk lockedC with ch1 := { lockedC with sc := ⟨1#1, 0#1, 0#2, 0#3⟩ } } = false := by decide
/-- StepKeepsEnablesOff, StepKeepsFilterCountsBounded, StepOnlyAppends and StepKeepsIndexInProgram: a state with their
invariants that steps, and one that is already refused and steps, for the last clause of StepOnlyAppends. -/
theorem witness_StepKeeps :
    let s := State.reset.withFetchWord 40 0x8000000008
    let r := { s with refusals := [.reservedEncoding] }
    (s.refusals = [] ∧ EnablesOffUnlessRefused s ∧ s.pc ≤ s.program.length ∧ ∃ t, step s = .next t) ∧
      (r.refused = true ∧ ∃ t, step r = .next t) ∧ ∀ ch, FilterCountsBounded Config.params (s.chan ch) := by
  refine ⟨⟨rfl, fun _ => ⟨rfl, rfl⟩, by decide, ⟨_, rfl⟩⟩, ⟨rfl, ⟨_, rfl⟩⟩, ?_⟩
  intro ch
  have h : 0 < Config.params.filterScale * 15 + Config.params.filterSlack := by
    have : Config.params.filterScale = Config.filterScaleLessOne + 1 := rfl
    omega
  cases ch <;> exact ⟨h, h⟩
/-- RepeatedWriteChangesNothing: W.FMS in any state; W.MODE not Locked, and Locked with `d[2] = 0`; a gated write, in
Locked and in Open. -/
theorem witness_RepeatedWriteChangesNothing :
    (Instr.wFms .ch0 0x40#32).fields.w = 1#1 ∧ (Instr.wMode .ch0 5#32).fields.w = 1#1 ∧
    ¬ Locked ((mk halfC).chan .ch0) ∧ ((mk lockedC).chan .ch0).wpen = 1#1 ∧ (3#32).extractLsb' 2 1 = 0#1 ∧
    (Instr.wMod .ch0 7#32).fields.w = 1#1 ∧
    (∀ ch d, Instr.wMod .ch0 7#32 ≠ .wMode ch d) ∧ Locked ((mk lockedC).chan (Instr.wMod .ch0 7#32).channel) ∧
    Opened ((mk openC).chan (Instr.wMod .ch0 7#32).channel) := by
  refine ⟨rfl, rfl, (by simp [Locked, mk, halfC, State.chan, Channel.reset]), rfl, by decide, rfl, ?_, rfl, rfl, rfl⟩
  intro ch d h; cases h
/-- BusAccessIsOperation: the reference addresses are sound; an access of each kind that is none of the registers'. -/
theorem witness_BusAccessIsOperation : busMapSound BusMap.reference = true ∧
    (2 ≠ 4 ∧ (busRegs.all fun x => busAddr BusMap.reference x.1 x.2 != 0x4003901C#32) = true) := by decide

end Sys2Proof.Tests
end

/-! PROOFS. The statements on the state, the launch and the step. -/

namespace Sys2Proof.Machine

/-! ## Independence of the instances -/

/-- The acts on the other channel do nothing to a record, so they can be left out. -/
theorem foldl_actChan_actsOn (ch : Ch) (acts : List Act) (c : Channel) :
    (actsOn ch acts).foldl (fun c x => actChan ch x c) c = acts.foldl (fun c x => actChan ch x c) c := by
  rw [actsOn, List.foldl_filter]
  congr 1
  funext c x
  cases x with
  | op i => by_cases h : i.channel = ch <;> simp [actChan, h]
  | tick y la lb => by_cases h : y = ch <;> simp [actChan, h]

/-- Settles O42: an act changes a record only as a function of that record, and only that of its own channel. -/
theorem instancesAreIndependent : Obligations.InstancesAreIndependent := by
  intro ch acts s
  rw [runActs_chan, runActs_chan, foldl_actChan_actsOn]

/-! ## The counter of a channel that is not enabled -/

/-- With the decoder off and no clock selected the counter's part of a tick does nothing (R182). -/
theorem countTick_stopped (ch : Ch) (d : Delta) {c : Channel} (hq : c.qdctrl.quaden = 0#1) (hk : c.sc.clks = 0#2) :
    countTick ch d c = c := by
  simp [countTick, Channel.active, hq, hk]

/-- A tick never writes QDCTRL or SC. -/
theorem tickChannel_config (prm : Params) (ch : Ch) (la lb : Level) (c : Channel) :
    (tickChannel prm ch la lb c).qdctrl = c.qdctrl ∧ (tickChannel prm ch la lb c).sc = c.sc := by
  obtain ⟨v, fa, fb, na, nb, l, k, h⟩ := tickChannel_eq prm ch la lb c
  rw [h]
  exact ⟨rfl, rfl⟩

/-- With the decoder off and no clock selected a tick holds the counter (R182). -/
theorem tickChannel_cnt_stopped (prm : Params) (ch : Ch) (la lb : Level) {c : Channel}
    (hq : c.qdctrl.quaden = 0#1) (hk : c.sc.clks = 0#2) : (tickChannel prm ch la lb c).cnt = c.cnt := by
  obtain ⟨k, fa, na, fb, nb, h⟩ := filterTick_eq prm ch la lb c
  have hs := countTick_stopped ch (filterTick prm ch la lb c).delta (c := (filterTick prm ch la lb c).relatch)
    (by rw [h]; exact hq) (by rw [h]; exact hk)
  simp only [tickChannel]
  rw [hs, h]
  rfl

/-- With the decoder off and no clock selected any ticks hold the counter (R182). -/
theorem runTicks_cnt_stopped (prm : Params) (ch : Ch) (ls : List (Level × Level)) {c : Channel}
    (hq : c.qdctrl.quaden = 0#1) (hk : c.sc.clks = 0#2) : (runTicks prm ch ls c).cnt = c.cnt := by
  induction ls generalizing c with
  | nil => rfl
  | cons l ls ih =>
    obtain ⟨hqd, hsc⟩ := tickChannel_config prm ch l.1 l.2 c
    rw [runTicks_cons, ih (by rw [hqd, hq]) (by rw [hsc, hk]), tickChannel_cnt_stopped prm ch l.1 l.2 hq hk]

/-- Both instances of a power-on launch are at power-on. -/
theorem powerOn_of_powerOnLaunch {s : State} (h : powerOnLaunch s = true) (ch : Ch) : (s.chan ch).powerOn = true := by
  simp only [powerOnLaunch, Bool.and_eq_true] at h
  obtain ⟨⟨⟨⟨h0, h1⟩, -⟩, -⟩, -⟩ := h
  cases ch
  · exact h0
  · exact h1

/-- At power-on the decoder is off, no clock is selected, and the counter is 0 (R42). -/
theorem stopped_of_powerOn {c : Channel} (h : c.powerOn = true) :
    c.qdctrl.quaden = 0#1 ∧ c.sc.clks = 0#2 ∧ c.cnt = 0#16 := by
  simp only [Channel.powerOn, Bool.and_eq_true, beq_iff_eq] at h
  simp [h]

/-- Settles O49: at power-on neither the decoder nor a clock counts, and no tick changes that. -/
theorem powerOnCounterHeld : Obligations.PowerOnCounterHeld := by
  intro s ch ls h
  obtain ⟨hq, hk, hc⟩ := stopped_of_powerOn (powerOn_of_powerOnLaunch h ch)
  rw [runTicks_cnt_stopped _ ch ls hq hk, hc]

/-! ## Launches -/

/-- The enables that the launch premise asks to be off (R41). -/
theorem enablesOff_iff (c : Channel) : c.enablesOff = true ↔
    c.sc.toie = 0#1 ∧ c.c0sc.chie = 0#1 ∧ c.c1sc.chie = 0#1 ∧ c.mode.faultie = 0#1 ∧ c.pcrA.irqc = 0#4 ∧
      c.pcrA.lk = 0#1 ∧ c.pcrB.irqc = 0#4 ∧ c.pcrB.lk = 0#1 := by
  simp [Channel.enablesOff, and_assoc]

/-- A fact about both instances. -/
theorem Ch.forall_iff (P : Ch → Prop) : (∀ ch, P ch) ↔ P .ch0 ∧ P .ch1 :=
  ⟨fun h => ⟨h .ch0, h .ch1⟩, fun h ch => by cases ch; exacts [h.1, h.2]⟩

/-- The launch premise, as a proposition (R41). -/
theorem launchPremise_iff (s : State) : launchPremise s = true ↔
    (∀ ch, (s.chan ch).enablesOff = true) ∧ s.refusals = [] ∧ s.hist = [] := by
  simp [launchPremise, State.refused, Ch.forall_iff, and_assoc]

/-- Settles O50: `launch` refuses exactly where the launch premise fails. -/
theorem launchOutOfPremiseIsRefused : Obligations.LaunchOutOfPremiseIsRefused := by
  intro s
  simp only [← enablesOff_iff, ← launchPremise_iff]
  exact ⟨fun h => if_pos h, fun h => if_neg h⟩

/-! ## What a step appends -/

/-- `t` has the lists of `s` with something appended, and the program of `s` (R39, R80). -/
def Extends (s t : State) : Prop :=
  (∃ rs, t.refusals = s.refusals ++ rs) ∧ (∃ es, t.hist = s.hist ++ es) ∧ (∃ ws, t.results = s.results ++ ws) ∧
    t.program = s.program

/-- A state extends one with the same lists and the same program. -/
theorem extends_of_eq {s t : State} (hr : t.refusals = s.refusals) (hh : t.hist = s.hist) (hw : t.results = s.results)
    (hp : t.program = s.program) : Extends s t :=
  ⟨⟨[], by simp [hr]⟩, ⟨[], by simp [hh]⟩, ⟨[], by simp [hw]⟩, hp⟩

/-- An operation appends to the lists and keeps the program. -/
theorem extends_execNext (i : Instr) (s : State) : Extends s (execNext i s) := by
  rcases execNext_cases i s with ⟨reg, r, k, h⟩ | ⟨reg, d, c, es, rs, h⟩
  · rw [h]; exact ⟨⟨[], by simp⟩, ⟨_, rfl⟩, ⟨_, rfl⟩, rfl⟩
  · rw [h]; exact ⟨⟨rs, rfl⟩, ⟨_, by rw [afterWrite_hist, List.append_assoc]⟩, ⟨[], by simp⟩, rfl⟩

/-- An operation advances the host's index (R22). -/
@[simp] theorem execNext_pc (i : Instr) (s : State) : (execNext i s).pc = s.pc + 1 := by
  rcases execNext_cases i s with ⟨reg, r, k, h⟩ | ⟨reg, d, c, es, rs, h⟩ <;> simp [h]

/-- A reserved word appends one refusal and keeps the program (R84). -/
theorem extends_reservedAccess (s : State) : Extends s (reservedAccess s) :=
  ⟨⟨[.reservedEncoding], rfl⟩, ⟨[], by simp [reservedAccess]⟩, ⟨[], by simp [reservedAccess]⟩, rfl⟩

/-- A tick leaves the lists and the program as they are (R187). -/
theorem extends_tick (ch : Ch) (la lb : Level) (s : State) : Extends s (tick ch la lb s) :=
  extends_of_eq (tick_refusals ..) (tick_hist ..) (tick_results ..) (tick_program ..)

/-- Every step appends to the lists and keeps the program. -/
theorem step_extends {s t : State} (h : step s = .next t) : Extends s t := by
  obtain ⟨u, ⟨sc, rfl⟩, ⟨ch, la, lb, rfl⟩ | ⟨w, i, -, -, rfl⟩ | ⟨w, e, -, -, rfl⟩ | ⟨-, rfl⟩⟩ := step_cases h
  · exact extends_tick ch la lb { s with script := sc }
  · exact extends_execNext i { s with script := sc }
  · exact extends_reservedAccess { s with script := sc }
  · exact extends_of_eq rfl rfl rfl rfl

/-- A step leaves the host's index, or issues a word of the program and advances it (R22, R80). -/
theorem step_pc {s t : State} (h : step s = .next t) :
    t.pc = s.pc ∨ (s.pc < s.program.length ∧ t.pc = s.pc + 1) := by
  obtain ⟨u, ⟨sc, rfl⟩, ⟨ch, la, lb, rfl⟩ | ⟨w, i, hw, -, rfl⟩ | ⟨w, e, hw, -, rfl⟩ | ⟨-, rfl⟩⟩ := step_cases h
  · exact .inl (tick_pc ..)
  · exact .inr ⟨(List.getElem?_eq_some_iff.1 hw).1, execNext_pc ..⟩
  · exact .inr ⟨(List.getElem?_eq_some_iff.1 hw).1, rfl⟩
  · exact .inl rfl

/-- The refusal mark is that something was refused (R39, log 5). -/
theorem refused_iff (s : State) : s.refused = true ↔ s.refusals ≠ [] := by simp [State.refused]

/-- Nothing appended to the refusals clears the mark (R39). -/
theorem Extends.refused {s t : State} (h : Extends s t) (hs : s.refused = true) : t.refused = true := by
  obtain ⟨⟨rs, hr⟩, -⟩ := h
  rw [refused_iff] at hs ⊢
  rw [hr]
  exact List.append_ne_nil_of_left_ne_nil hs rs

/-- Settles O55: every kind of step appends to the lists, and `pc` moves with a word of the program alone. -/
theorem stepOnlyAppends : Obligations.StepOnlyAppends := by
  intro s t h
  obtain ⟨hrefusals, hhist, hresults, hprogram⟩ := step_extends h
  exact ⟨hrefusals, hhist, hresults, (step_pc h).imp_right And.right, hprogram, (step_extends h).refused⟩

/-- Settles O56: `pc` is advanced only where a word stands at it, so it does not pass the program's end. -/
theorem stepKeepsIndexInProgram : Obligations.StepKeepsIndexInProgram := by
  intro s t hpc h
  obtain ⟨-, -, -, hprogram⟩ := step_extends h
  rw [hprogram]
  rcases step_pc h with ht | ⟨hlt, ht⟩
  · rwa [ht]
  · rw [ht]; exact hlt

/-! ## Repeated writes -/

/-- A Locked gate keeps the record (R120). -/
theorem gatedChan_locked (ch : Ch) (reg : Reg) (store : Channel → Channel) {c : Channel} (h : Locked c) :
    gatedChan ch reg store c = c := by
  rw [gatedChan, gate_locked ch reg h]

/-- An Open gate admits the store (R120). -/
theorem gatedChan_opened (ch : Ch) (reg : Reg) (store : Channel → Channel) {c : Channel} (h : Opened c) :
    gatedChan ch reg store c = store c := by
  rw [gatedChan, gate_open ch reg h.1 h.2]

/-- A gated write repeated while Locked or Open changes nothing, where its store changes neither the latch nor MODE. -/
theorem gatedChan_idem {ch : Ch} {reg : Reg} {store : Channel → Channel} {c : Channel}
    (hs : store (store c) = store c) (hw : (store c).wpen = c.wpen) (hm : (store c).mode = c.mode)
    (h : Locked c ∨ Opened c) :
    gatedChan ch reg store (gatedChan ch reg store c) = gatedChan ch reg store c := by
  rcases h with h | h
  · rw [gatedChan_locked _ _ _ h, gatedChan_locked _ _ _ h]
  · have h' : Opened (store c) := ⟨hw.trans h.1, (congrArg Mode.ftmen hm).trans h.2⟩
    rw [gatedChan_opened _ _ _ h, gatedChan_opened _ _ _ h', hs]

/-- A W.MODE repeated changes nothing, where it does not unlock its channel (R125). -/
theorem modeChan_idem {d : Word} {c : Channel} (h : ¬ Locked c ∨ field d 2 1 = 0#1) :
    modeChan d (modeChan d c) = modeChan d c := by
  by_cases hl : c.wpen = 1#1
  · have hd : field d 2 1 = 0#1 := h.resolve_left (fun hn => hn hl)
    simp [modeChan, hl, hd]
  · by_cases hd : field d 2 1 = 1#1 <;> simp [modeChan, hl, hd]

/-- A W.FMS repeated changes nothing (R127). -/
theorem opChan_wFms_idem (ch : Ch) (d : Word) (c : Channel) :
    opChan (.wFms ch d) (opChan (.wFms ch d) c) = opChan (.wFms ch d) c := by
  by_cases hd : field d 6 1 = 1#1 <;> simp [opChan, hd]

/-- Any write but W.MODE, repeated while its channel is Locked or Open, changes nothing. -/
theorem opChan_idem_of_settledGate {i : Instr} {c : Channel} (hw : i.fields.w = 1#1) (hm : ∀ ch d, i ≠ .wMode ch d)
    (h : Locked c ∨ Opened c) : opChan i (opChan i c) = opChan i c := by
  cases i with
  | wMode ch d => exact absurd rfl (hm ch d)
  | wPcrA ch d | wPcrB ch d | wCnt ch d => rfl
  | wFms ch d => exact opChan_wFms_idem ch d c
  | wSc ch d | wMod ch d | wCntin ch d | wC0sc ch d | wC0v ch d | wC1sc ch d | wC1v ch d | wFilter ch d
  | wQdctrl ch d => exact gatedChan_idem rfl rfl rfl h
  | rPcrA ch | rPcrB ch | rMode ch | rFms ch | rSc ch | rMod ch | rCntin ch | rC0sc ch | rC0v ch | rC1sc ch | rC1v ch
  | rFilter ch | rQdctrl ch | rCnt ch => exact absurd (show 0#1 = 1#1 from hw) (by decide)

/-- An operation whose effect on its own record is idempotent there, repeated, leaves both instances alone. -/
theorem execNext_repeated_chan {i : Instr} {s : State}
    (h : opChan i (opChan i (s.chan i.channel)) = opChan i (s.chan i.channel)) (x : Ch) :
    (execNext i (execNext i s)).chan x = (execNext i s).chan x := by
  rcases Ch.eq_or i.channel x with rfl | hx
  · rw [execNext_chan, execNext_chan, h]
  · rw [execNext_other i _ hx]

/-- Settles O57: each form of write is idempotent on the record of its own channel. -/
theorem repeatedWriteChangesNothing : Obligations.RepeatedWriteChangesNothing := by
  intro i s x hw h
  apply execNext_repeated_chan
  rcases h with ⟨ch, d, rfl | rfl | rfl | rfl⟩ | ⟨ch, d, rfl, h⟩ | ⟨hm, h⟩
  · rfl
  · rfl
  · rfl
  · exact opChan_wFms_idem ch d _
  · rw [← channel_writeInstr .mode ch d] at h
    exact modeChan_idem h
  · exact opChan_idem_of_settledGate hw hm h

/-! ## The operation a step runs -/

/-- A turn of the host whose word decodes runs the operation (R80). -/
theorem hostTurn_of_decode {s : State} {t : TWord} {i : Instr} (hf : s.program[s.pc]? = some t)
    (hd : decode t = .ok i) : hostTurn s = exec i s := by
  simp [hostTurn, fetch, hf, runWord, hd]

/-- Settles O6: both forms of the script give the turn to the host. -/
theorem stepRunsDecodedOperation : Obligations.StepRunsDecodedOperation := by
  intro s t i hf hd
  constructor
  · intro rest hs
    rw [step, turn, hs]
    exact hostTurn_of_decode hf hd
  · intro hs
    rw [step, turn, hs]
    exact hostTurn_of_decode hf hd

/-! ## The state after reset -/

/-- Both instances hold the power-on record after reset. -/
@[simp] theorem reset_chan (ch : Ch) : State.reset.chan ch = Channel.reset := by cases ch <;> rfl

/-- R.MODE after reset: WPDIS reads 1, INIT is free, all other bits are 0 (R42, R126). -/
theorem modeWord_reset (init : Bit) : Mode.reset.toWord 0#1 init = 0#29 ++ 1#1 ++ init ++ 0#1 := by
  revert init; decide

/-- The first R.MODE after reset returns that word, with the channel's first free value as INIT. -/
theorem rMode_reset_results (ch : Ch) :
    (execNext (.rMode ch) State.reset).results = [0#29 ++ 1#1 ++ drawFlag ch Channel.reset 0 ++ 0#1] := by
  rw [← modeWord_reset]
  cases ch <;> rfl

/-- Settles O48: the values are those of `Channel.reset`, and the R.MODE word is that of a reset MODE, not Locked. -/
theorem resetIsPowerOnLaunch : Obligations.ResetIsPowerOnLaunch := by
  refine ⟨fun ch => ?_, rfl, rfl, rfl, by decide, by decide⟩
  have hmode : ∃ init : Bit, (execNext (.rMode ch) State.reset).results = [0#29 ++ 1#1 ++ init ++ 0#1] :=
    ⟨_, rMode_reset_results ch⟩
  simp only [reset_chan, hmode]
  decide

/-- Settles O52: both instances have every enable off after reset. -/
theorem resetHasEnablesOff : Obligations.ResetHasEnablesOff :=
  fun _ => ⟨by decide, by decide⟩

/-- FILTER_SCALE is positive (R7). -/
theorem filterScale_pos : 0 < Config.params.filterScale := Nat.succ_pos _

/-- Settles O54: both counts are 0 after reset, and FILTER_SCALE is positive. -/
theorem resetHasFilterCountsBounded : Obligations.ResetHasFilterCountsBounded := by
  intro ch
  have hpos := filterScale_pos
  rw [reset_chan]
  constructor <;> simp only [Channel.reset] <;> omega

end Sys2Proof.Machine

/-! PROOFS. The statements on the bus layer. -/

namespace Sys2Proof.Machine

/-! ## The register at an address -/

/-- Settles O58: the two pin-control registers have addresses of their own, every other one lies at its offset. -/
theorem busAddressOfRegister : Obligations.BusAddressOfRegister := by
  intro m ch r
  cases r <;> rfl

/-- Every register of both instances is on the bus (R62). -/
theorem mem_busRegs (x : Ch × Reg) : x ∈ busRegs := by
  obtain ⟨ch, r⟩ := x
  cases ch <;> cases r <;> decide

/-- A sound map, as a proposition: the addresses are word-aligned and no two registers share one (R61 to R63). -/
theorem busMapSound_iff (m : BusMap) : busMapSound m = true ↔
    (∀ x : Ch × Reg, (busAddr m x.1 x.2).toNat % 4 = 0) ∧
      ∀ x y : Ch × Reg, busAddr m x.1 x.2 = busAddr m y.1 y.2 → x = y := by
  simp [busMapSound, mem_busRegs, or_iff_not_imp_right]

/-- The map finds nothing at an address that is no register's. -/
theorem regAt_eq_none {m : BusMap} {a : Addr} (h : ∀ ch r, busAddr m ch r ≠ a) : regAt m a = none :=
  List.find?_eq_none.2 fun x _ => by simpa using h x.1 x.2

/-- A sound map finds each register at its own address (R62). -/
theorem regAt_busAddr {m : BusMap} (h : busMapSound m = true) (ch : Ch) (r : Reg) :
    regAt m (busAddr m ch r) = some (ch, r) := by
  obtain ⟨-, hinj⟩ := (busMapSound_iff m).1 h
  cases hf : regAt m (busAddr m ch r) with
  | none => exact absurd (beq_self_eq_true _) (List.find?_eq_none.1 hf (ch, r) (mem_busRegs _))
  | some y =>
    have hy : busAddr m y.1 y.2 = busAddr m ch r := by simpa using List.find?_some hf
    rw [hinj y (ch, r) hy]

/-! ## What an access does -/

/-- A whole access at a register's address is that register's operation (R63). -/
theorem busInstr_busAddr {m : BusMap} (h : busMapSound m = true) (ch : Ch) (r : Reg) (d : Word) :
    busInstr m ⟨busAddr m ch r, 4, .read, d⟩ = some (readInstr r ch) ∧
      busInstr m ⟨busAddr m ch r, 4, .write, d⟩ = some (writeInstr r ch d) := by
  obtain ⟨halign, -⟩ := (busMapSound_iff m).1 h
  simp [busInstr, halign (ch, r), regAt_busAddr h]

/-- An access of another size, or at an address that is no register's, is no operation (R63). -/
theorem busInstr_eq_none {m : BusMap} {x : BusAccess} (h : x.bytes ≠ 4 ∨ ∀ ch r, busAddr m ch r ≠ x.addr) :
    busInstr m x = none := by
  rcases h with hsize | haddr
  · exact if_neg fun hc => hsize hc.1
  · simp [busInstr, regAt_eq_none haddr]

/-- An access that is an operation runs it. -/
theorem busStep_of_some {m : BusMap} {x : BusAccess} {i : Instr} (h : busInstr m x = some i) (s : State) :
    busStep m x s = exec i s := by
  simp [busStep, h]

/-- An access that is none is refused as a reserved one (R63, R252). -/
theorem busStep_of_none {m : BusMap} {x : BusAccess} (h : busInstr m x = none) (s : State) :
    busStep m x s = .next (reservedAccess s) := by
  simp [busStep, h]

/-- Settles O59: a sound map finds the one register of an address; an access that is no operation is reserved. -/
theorem busAccessIsOperation : Obligations.BusAccessIsOperation := by
  intro m s hm
  constructor
  · intro ch r d
    obtain ⟨hread, hwrite⟩ := busInstr_busAddr hm ch r d
    exact ⟨busStep_of_some hread s, busStep_of_some hwrite s⟩
  · intro x hx
    exact busStep_of_none (busInstr_eq_none hx) s

end Sys2Proof.Machine

/-! PROOFS. The statements on the encoding. -/

namespace Sys2Proof

/-! ## The round trips -/

/-- The fields of a read decode to it. -/
@[simp] theorem decodeFields_readFields (r : Reg) (ch : Ch) :
    decodeFields (readFields r ch) = .ok (readInstr r ch) := by
  simp [decodeFields, readFields]

/-- The fields of a write decode to it. -/
@[simp] theorem decodeFields_writeFields (r : Reg) (ch : Ch) (d : Word) :
    decodeFields (writeFields r ch d) = .ok (writeInstr r ch d) := by
  simp [decodeFields, writeFields]

/-- The fields of every operation decode to it: each constructor is the read or the write of its register. -/
theorem decodeFields_fields (i : Instr) : decodeFields i.fields = .ok i := by
  cases i <;> simp only [Instr.fields, decodeFields_readFields, decodeFields_writeFields, readInstr, writeInstr]

/-- Settles O1: a word decodes as its fields do, and those of an operation decode to it. -/
theorem decodeEncodeAllInstr : Obligations.DecodeEncodeAllInstr := by
  intro i
  rw [encode, decode_wordOfFields, decodeFields_fields]

/-- Fields that decode are those of a read or of a write, and decode to it. -/
theorem decodeFields_eq_ok {f : Fields} {i : Instr} (h : decodeFields f = .ok i) :
    (∃ r ch, f = readFields r ch ∧ i = readInstr r ch) ∨
      ∃ r ch d, f = writeFields r ch d ∧ i = writeInstr r ch d := by
  obtain ⟨w, b, sel, data⟩ := f
  unfold decodeFields at h
  split at h
  case h_1 => cases h
  case h_2 r hr =>
    obtain rfl := Reg.sel_of_ofSel hr
    by_cases hw : w = 1#1
    · refine .inr ⟨r, Ch.ofBit b, data, ?_, ?_⟩
      · rw [writeFields, Ch.bit_ofBit, hw]
      · simpa [hw] using h.symm
    · obtain rfl := (BitVec.eq_zero_or_eq_one w).resolve_right hw
      by_cases hd : data = 0#32
      · refine .inl ⟨r, Ch.ofBit b, ?_, ?_⟩
        · rw [readFields, Ch.bit_ofBit, hd]
        · simpa [hd] using h.symm
      · simp [hd] at h

/-- Every operation is the read or the write of a register (R86). -/
theorem Instr.eq_readInstr_or_writeInstr (i : Instr) :
    (∃ r ch, i = readInstr r ch) ∨ ∃ r ch d, i = writeInstr r ch d := by
  rcases decodeFields_eq_ok (decodeFields_fields i) with ⟨r, ch, -, hi⟩ | ⟨r, ch, d, -, hi⟩
  · exact .inl ⟨r, ch, hi⟩
  · exact .inr ⟨r, ch, d, hi⟩

/-- Fields that decode are the fields of what they decode to. -/
theorem fields_of_decodeFields {f : Fields} {i : Instr} (h : decodeFields f = .ok i) : i.fields = f := by
  rcases decodeFields_eq_ok h with ⟨r, ch, rfl, rfl⟩ | ⟨r, ch, d, rfl, rfl⟩
  · exact fields_readInstr r ch
  · exact fields_writeInstr r ch d

/-- Settles O2: the word's fields are the operation's, and a word is made of its fields. -/
theorem encodeOfDecodedWord : Obligations.EncodeOfDecodedWord := by
  intro w i h
  rw [encode, fields_of_decodeFields h, wordOfFields_fieldsOfWord]

/-! ## Reserved words -/

/-- The fields that are an operation (R84). -/
theorem exists_decodeFields_eq_ok_iff (f : Fields) :
    (∃ i, decodeFields f = .ok i) ↔ f.sel ∈ assignedSelectors ∧ (f.w = 1#1 ∨ f.data = 0#32) := by
  rw [← Reg.ofSel_isSome_iff, decodeFields]
  cases Reg.ofSel f.sel with
  | none => simp
  | some r =>
    by_cases hw : f.w = 1#1
    · simp [hw]
    · by_cases hd : f.data = 0#32 <;> simp [hw, hd]

/-- A word that is no operation is refused as a reserved one (R84). -/
theorem runWord_of_reserved {w : TWord} (h : ¬ ∃ i, decode w = .ok i) (s : Machine.State) :
    Machine.runWord w s = .next (Machine.reservedAccess s) := by
  unfold Machine.runWord
  split
  case h_1 i hi => exact absurd ⟨i, hi⟩ h
  case h_2 => rfl

/-- Settles O3: the decoder's domain, and what the host does outside it. -/
theorem reservedWordsAreRefused : Obligations.ReservedWordsAreRefused := by
  intro w s
  exact ⟨exists_decodeFields_eq_ok_iff (fieldsOfWord w), fun h => runWord_of_reserved h s⟩

/-! ## The opcode table -/

/-- The row of a read names its register, and no channel (R86). -/
theorem row_readInstr (r : Reg) (ch : Ch) :
    (readInstr r ch).mask = 0xBFFFFFFFFF#40 ∧ (readInstr r ch).matchBits = wordOfFields (readFields r .ch0) := by
  cases r <;> exact ⟨rfl, rfl⟩

/-- The row of a write names its register, and neither channel nor data (R86). -/
theorem row_writeInstr (r : Reg) (ch : Ch) (d : Word) :
    (writeInstr r ch d).mask = 0xBF00000000#40 ∧
      (writeInstr r ch d).matchBits = wordOfFields (writeFields r .ch0 0#32) := by
  cases r <;> exact ⟨rfl, rfl⟩

/-- The word of every operation lies in its row of the table (R86). -/
theorem encode_and_mask (i : Instr) : encode i &&& i.mask = i.matchBits := by
  rcases i.eq_readInstr_or_writeInstr with ⟨r, ch, rfl⟩ | ⟨r, ch, d, rfl⟩
  · obtain ⟨hmask, hmatch⟩ := row_readInstr r ch
    rw [hmask, hmatch, encode, fields_readInstr, Laws.TableRow.read_row]
  · obtain ⟨hmask, hmatch⟩ := row_writeInstr r ch d
    rw [hmask, hmatch, encode, fields_writeInstr, Laws.TableRow.write_row]

/-- The fields of a masked word are the word's fields under the mask's. -/
theorem fieldsOfWord_and (w m : TWord) :
    fieldsOfWord (w &&& m) =
      ⟨(fieldsOfWord w).w &&& (fieldsOfWord m).w, (fieldsOfWord w).ch &&& (fieldsOfWord m).ch,
        (fieldsOfWord w).sel &&& (fieldsOfWord m).sel, (fieldsOfWord w).data &&& (fieldsOfWord m).data⟩ := by
  simp only [fieldsOfWord, BitVec.extractLsb'_and]

/-- The mask of a read keeps every field but CH. -/
theorem fieldsOfWord_and_readMask (w : TWord) :
    fieldsOfWord (w &&& 0xBFFFFFFFFF#40) = { fieldsOfWord w with ch := 0#1 } := by
  have hm : fieldsOfWord 0xBFFFFFFFFF#40 = ⟨BitVec.allOnes 1, 0#1, BitVec.allOnes 6, BitVec.allOnes 32⟩ := by decide
  simp only [fieldsOfWord_and, hm, BitVec.and_allOnes, BitVec.and_zero]

/-- The mask of a write keeps W and SEL. -/
theorem fieldsOfWord_and_writeMask (w : TWord) :
    fieldsOfWord (w &&& 0xBF00000000#40) = { fieldsOfWord w with ch := 0#1, data := 0#32 } := by
  have hm : fieldsOfWord 0xBF00000000#40 = ⟨BitVec.allOnes 1, 0#1, BitVec.allOnes 6, 0#32⟩ := by decide
  simp only [fieldsOfWord_and, hm, BitVec.and_allOnes, BitVec.and_zero]

/-- A word in the row of a read decodes to the read of that register. -/
theorem decode_of_readRow {w : TWord} {r : Reg} (h : w &&& 0xBFFFFFFFFF#40 = wordOfFields (readFields r .ch0)) :
    ∃ ch, decode w = .ok (readInstr r ch) := by
  have hf : { fieldsOfWord w with ch := 0#1 } = readFields r .ch0 := by
    rw [← fieldsOfWord_and_readMask, h, fieldsOfWord_wordOfFields]
  refine ⟨Ch.ofBit (fieldsOfWord w).ch, ?_⟩
  simp only [readFields, Ch.bit, Fields.mk.injEq] at hf
  simp [decode, decodeFields, hf]

/-- A word in the row of a write decodes to a write of that register. -/
theorem decode_of_writeRow {w : TWord} {r : Reg}
    (h : w &&& 0xBF00000000#40 = wordOfFields (writeFields r .ch0 0#32)) :
    ∃ ch d, decode w = .ok (writeInstr r ch d) := by
  have hf : { fieldsOfWord w with ch := 0#1, data := 0#32 } = writeFields r .ch0 0#32 := by
    rw [← fieldsOfWord_and_writeMask, h, fieldsOfWord_wordOfFields]
  refine ⟨Ch.ofBit (fieldsOfWord w).ch, (fieldsOfWord w).data, ?_⟩
  simp only [writeFields, Ch.bit, Fields.mk.injEq] at hf
  simp [decode, decodeFields, hf]

/-- A word in the row of an operation decodes to an operation of that row (R86). -/
theorem decode_of_row {w : TWord} {i : Instr} (h : w &&& i.mask = i.matchBits) :
    ∃ j, decode w = .ok j ∧ j.matchBits = i.matchBits ∧ j.mask = i.mask := by
  rcases i.eq_readInstr_or_writeInstr with ⟨r, ch, rfl⟩ | ⟨r, ch, d, rfl⟩
  · obtain ⟨hmask, hmatch⟩ := row_readInstr r ch
    obtain ⟨ch', hw⟩ := decode_of_readRow (hmask ▸ hmatch ▸ h)
    obtain ⟨hmask', hmatch'⟩ := row_readInstr r ch'
    exact ⟨_, hw, hmatch'.trans hmatch.symm, hmask'.trans hmask.symm⟩
  · obtain ⟨hmask, hmatch⟩ := row_writeInstr r ch d
    obtain ⟨ch', d', hw⟩ := decode_of_writeRow (hmask ▸ hmatch ▸ h)
    obtain ⟨hmask', hmatch'⟩ := row_writeInstr r ch' d'
    exact ⟨_, hw, hmatch'.trans hmatch.symm, hmask'.trans hmask.symm⟩

/-- Settles O4: a word in a row decodes into the row, and a word that decodes is the word of an operation, which lies in
its own row. -/
theorem decodeFollowsOpcodeTable : Obligations.DecodeFollowsOpcodeTable := by
  intro w i
  constructor
  · exact decode_of_row
  · rintro ⟨j, hj, hmatch, hmask⟩
    rw [← hmatch, ← hmask, ← encodeOfDecodedWord w j hj, encode_and_mask]

/-- Settles O5: the decoder, evaluated on each word. -/
theorem sampleWordsDecode : Obligations.SampleWordsDecode := by
  unfold Obligations.SampleWordsDecode
  decide

end Sys2Proof

/-! PROOFS. The statement on the script directives. -/

namespace Sys2Proof.Machine

/-! ## One transition -/

/-- A step along the cycle is counted, and changes one bit of the pair (R88, R185). -/
theorem qd_gray (x : Bit × Bit) :
    qd (x.1 ++ x.2) ((grayNext x).1 ++ (grayNext x).2) = .up ∧
    qd (x.1 ++ x.2) ((grayPrev x).1 ++ (grayPrev x).2) = .down ∧
    ((grayNext x).1 = x.1 ↔ (grayNext x).2 ≠ x.2) ∧ ((grayPrev x).1 = x.1 ↔ (grayPrev x).2 ≠ x.2) := by
  obtain ⟨a, b⟩ := x
  revert a b
  decide

/-- A transition that changes one bit leaves the other pin as it is driven (R88). -/
theorem turnOnce_keeps_other_pin {next : Bit × Bit → Bit × Bit} {pull : Phase → Bit} {x : Level × Level}
    (h : (next (rawPair pull x)).1 = (rawPair pull x).1 ↔ (next (rawPair pull x)).2 ≠ (rawPair pull x).2) :
    (turnOnce next pull x).1 = x.1 ∨ (turnOnce next pull x).2 = x.2 := by
  by_cases hb : (next (rawPair pull x)).2 = (rawPair pull x).2
  · exact .inr (if_pos hb)
  · exact .inl (if_pos (h.2 hb))

/-! ## The levels that a line leaves -/

/-- A script splits at every line (R88). -/
theorem scriptOf_append (prm : Params) (pull : Ch → Phase → Bit) (e : ScriptLevels) (ls ms : List Line) :
    scriptOf prm pull e (ls ++ ms) = scriptOf prm pull e ls ++ scriptOf prm pull (levelsAfter pull e ls) ms := by
  induction ls generalizing e with
  | nil => rfl
  | cons l ls ih => simp only [List.cons_append, scriptOf, levelsAfter, ih, List.append_assoc]

/-- Turns of the host are no ticks. -/
@[simp] theorem tickLevels_replicate_host (ch : Ch) (n : Nat) : tickLevels ch (List.replicate n .host) = [] := by
  simp [tickLevels]

/-- Transitions that are held end at the levels of their last tick. -/
theorem getLast_tickLevels_turnMoves (next : Bit × Bit → Bit × Bit) (pull : Phase → Bit) (ch : Ch) {h : Nat}
    (hh : h ≠ 0) (k : Nat) (x : Level × Level) :
    (tickLevels ch (turnMoves next pull ch h k x)).getLast?.getD x = turnLevels next pull k x := by
  induction k generalizing x with
  | zero => rfl
  | succ k ih => simp [turnMoves, turnLevels, List.getLast?_append, List.getLast?_replicate, hh, ih]

/-- Transitions of one channel are no ticks of the other. -/
theorem tickLevels_turnMoves_other (next : Bit × Bit → Bit × Bit) (pull : Phase → Bit) {ch y : Ch} (hy : y ≠ ch)
    (h k : Nat) (x : Level × Level) : tickLevels ch (turnMoves next pull y h k x) = [] := by
  induction k generalizing x with
  | zero => rfl
  | succ k ih => simp [turnMoves, tickLevels_envMoves_other hy, ih]

/-- Held transitions of any channel leave, for each channel, the levels of its last tick. -/
theorem levelsAt_turn (next : Bit × Bit → Bit × Bit) (pull : Phase → Bit) (e : ScriptLevels) (y ch : Ch) {h : Nat}
    (hh : h ≠ 0) (k : Nat) :
    levelsAt (setLevels e y (turnLevels next pull k (levelsAt e y))) ch =
      (tickLevels ch (turnMoves next pull y h k (levelsAt e y))).getLast?.getD (levelsAt e ch) := by
  by_cases hy : y = ch
  · subst hy
    rw [levelsAt_setLevels, getLast_tickLevels_turnMoves next pull y hh]
  · rw [levelsAt_setLevels_other e (Ne.symm hy), tickLevels_turnMoves_other next pull hy]
    rfl

/-- The levels of one directive ENV: those of its last tick, or those before where it has none (log 25). -/
theorem levelsAt_env (e : ScriptLevels) (y ch : Ch) (x : Level × Level) (n : Nat) :
    levelsAt (if n = 0 then e else setLevels e y x) ch =
      (tickLevels ch (envMoves y x n)).getLast?.getD (levelsAt e ch) := by
  by_cases hy : y = ch
  · subst hy
    by_cases hn : n = 0 <;> simp [hn, List.getLast?_replicate]
  · rw [tickLevels_envMoves_other hy]
    by_cases hn : n = 0 <;> simp [hn, levelsAt_setLevels_other e (Ne.symm hy)]

/-- A line without unheld transitions leaves, for each channel, the levels of its last tick of the line, or those
before the line where it has none (R88). -/
theorem levelsAt_lineLevels (prm : Params) (pull : Ch → Phase → Bit) (e : ScriptLevels) {l : Line}
    (hl : ∀ ch k, .fwd ch k 0 ≠ l ∧ .rev ch k 0 ≠ l) (ch : Ch) :
    levelsAt (lineLevels pull e l) ch = (tickLevels ch (lineMoves prm pull e l)).getLast?.getD (levelsAt e ch) := by
  cases l with
  | op i => rfl
  | word t => rfl
  | init y => simp [lineLevels, lineMoves]
  | read y => rfl
  | reset y v => rfl
  | env y la lb n => exact levelsAt_env e y ch (la, lb) n
  | fwd y k h => exact levelsAt_turn grayNext (pull y) e y ch (fun hh => (hl y k).1 (hh ▸ rfl)) k
  | rev y k h => exact levelsAt_turn grayPrev (pull y) e y ch (fun hh => (hl y k).2 (hh ▸ rfl)) k

/-- Lines without unheld transitions leave, for each channel, the levels of its last tick, or those before the script
where it has none (R88). -/
theorem levelsAt_levelsAfter (prm : Params) (pull : Ch → Phase → Bit) (e : ScriptLevels) (ls : List Line)
    (hls : ∀ ch k, .fwd ch k 0 ∉ ls ∧ .rev ch k 0 ∉ ls) (ch : Ch) :
    levelsAt (levelsAfter pull e ls) ch =
      (tickLevels ch (scriptOf prm pull e ls)).getLast?.getD (levelsAt e ch) := by
  induction ls generalizing e with
  | nil => rfl
  | cons l ls ih =>
    have hl := fun x k => (hls x k).imp List.ne_of_not_mem_cons List.ne_of_not_mem_cons
    have htail := fun x k => (hls x k).imp List.not_mem_of_not_mem_cons List.not_mem_of_not_mem_cons
    rw [levelsAfter, ih _ htail, levelsAt_lineLevels prm pull e hl, scriptOf, tickLevels_append,
      List.getLast?_append, Option.getD_or]

/-- Settles O41: a directive's transitions are steps along the cycle, and each line goes on from the levels that the
lines before it have left. -/
theorem directivesFollowTheCycle : Obligations.DirectivesFollowTheCycle := by
  refine ⟨qd_gray, fun prm pull e ch k h => ?_, fun prm pull e ls =>
    ⟨scriptOf_append prm pull e ls, levelsAt_levelsAfter prm pull e ls⟩⟩
  obtain ⟨-, -, hnext, hprev⟩ := qd_gray (rawPair (pull ch) (levelsAt e ch))
  refine ⟨rawPair_turnOnce _ _ _, turnOnce_keeps_other_pin hnext, rawPair_turnOnce _ _ _,
    turnOnce_keeps_other_pin hprev, rfl, rfl, ?_, ?_⟩
  · simp [lineMoves, turnMoves, envMoves]
  · simp [lineMoves, turnMoves, envMoves]

end Sys2Proof.Machine

/-! PROOFS. The statements on pin control. -/

namespace Sys2Proof.Machine

/-! ## The word of a pin-control register -/

/-- A concatenation is placed part by part. -/
theorem place_append {n m : Nat} (v : BitVec n) (x : BitVec m) (lo : Nat) :
    place (n + m) (v ++ x) lo = place n v (lo + m) ||| place m x lo := by
  apply BitVec.eq_of_getLsbD_eq
  intro i hi
  simp only [place, BitVec.getLsbD_or, BitVec.getLsbD_shiftLeft, BitVec.getLsbD_setWidth, BitVec.getLsbD_append]
  grind

/-- Reserved bits, which are 0, add nothing to a word. -/
@[simp] theorem place_zero (n lo : Nat) : place n 0#n lo = 0#32 := by
  simp [place]

/-- A whole word placed at bit 0 is that word. -/
theorem place_word (w : Word) : place 32 w 0 = w := by
  simp [place]

/-- The read word of a pin-control register, its fields and its reserved bits from bit 31 down (R101). -/
theorem Pcr.toWord_eq_append (x : Pcr) (isf : Bit) :
    x.toWord isf = 0#7 ++ isf ++ 0#4 ++ x.irqc ++ x.lk ++ 0#4 ++ x.mux ++ 0#1 ++ x.dse ++ x.ode ++ x.pfe ++
      0#1 ++ x.sre ++ x.pe ++ x.ps := by
  calc x.toWord isf
    _ = place _ (0#7 ++ isf ++ 0#4 ++ x.irqc ++ x.lk ++ 0#4 ++ x.mux ++ 0#1 ++ x.dse ++ x.ode ++ x.pfe ++
          0#1 ++ x.sre ++ x.pe ++ x.ps) 0 := by
      simp only [place_append, place_zero, BitVec.zero_or, BitVec.or_zero]; rfl
    _ = _ := place_word _

/-- Settles O10: each read returns the word of its register with the next free value as ISF, and spends that value. -/
theorem pinControlReads : Obligations.PinControlReads := by
  intro s ch isf word
  have hword (p : Pcr) : p.toWord (drawFlag ch (s.chan ch) 0) = word p := p.toWord_eq_append isf
  refine ⟨readWordOf_readInstr .pcrA ch, ?_, readWordOf_readInstr .pcrB ch, ?_⟩
  · rw [exec, execRPcrA, finishRead_eq_afterRead, hword]
  · rw [exec, execRPcrB, finishRead_eq_afterRead, hword]

/-! ## Writes of a pin-control register -/

/-- What a pin-control write refuses: a pin interrupt (IRQC) or the pin lock (LK) (R102). -/
theorem pinFeature_iff (d : Word) :
    pinFeature d = true ↔ d.extractLsb' 16 4 ≠ 0#4 ∨ d.extractLsb' 15 1 = 1#1 := by
  simp [pinFeature, field]

/-- Settles O11: each write stores the fields of `d` behind no gate, and refuses where `pinFeature` holds. -/
theorem pinControlWrites : Obligations.PinControlWrites := by
  intro s ch d p reasons
  have hreasons : (if pinFeature d then [.pinFeatureOutOfScope] else []) = reasons :=
    if_congr (pinFeature_iff d) rfl rfl
  refine ⟨writeWordOf_writeInstr .pcrA ch d, writeWordOf_writeInstr .pcrB ch d, ?_, ?_⟩
  · rw [exec, execWPcrA, finishWrite_eq_afterWrite, refuseIf_chan, hreasons]; rfl
  · rw [exec, execWPcrB, finishWrite_eq_afterWrite, refuseIf_chan, hreasons]; rfl

/-! ## The pins and the decoder's inputs -/

/-- An undriven pin that is pulled has the level it is pulled to (R105). -/
theorem pinLevel_pulled (ch : Ch) {p : Phase} {c : Channel} (h : (c.pcr p).pe = 1#1) :
    pinLevel ch p .z c = ((c.pcr p).ps, c) := if_pos h

/-- A floating pin has the next free value as its level, and spends it (R105). -/
theorem pinLevel_floating (ch : Ch) {p : Phase} {c : Channel} (h : (c.pcr p).pe = 0#1) :
    pinLevel ch p .z c = (drawBits 1 ch c 0, c.spend 1) := if_neg (by simp [h])

/-- Settles O12: a driven pin by the definition, an undriven one by its pull. -/
theorem pinLevelOfEnvironment : Obligations.PinLevelOfEnvironment := by
  intro ch p c
  exact ⟨⟨rfl, rfl⟩, pinLevel_pulled ch, pinLevel_floating ch⟩

/-- A pin routed to the decoder feeds its level to it (R107). -/
theorem decIn_routed {prm : Params} {ch : Ch} {p : Phase} {c : Channel} (h : (c.pcr p).mux = prm.altQd ch p)
    (l : Level) : decIn prm ch p l c = pinLevel ch p l c := if_pos h

/-- An input that no pin is routed to is the next free value, which is spent (R107). -/
theorem decIn_unrouted {prm : Params} {ch : Ch} {p : Phase} {c : Channel} (h : (c.pcr p).mux ≠ prm.altQd ch p)
    (l : Level) : decIn prm ch p l c = (drawBits 1 ch c 0, c.spend 1) := if_neg h

/-- Settles O13: the two cases of the routing. -/
theorem decoderInputRouting : Obligations.DecoderInputRouting := by
  intro prm ch p l c
  exact ⟨fun h => decIn_routed h l, fun h => decIn_unrouted h l⟩

end Sys2Proof.Machine

/-! PROOFS. The statements on write protection. -/

namespace Sys2Proof.Machine

/-! ## Invariants of a channel -/

/-- What every operation and every tick of a channel keeps of its record, any acts keep. -/
theorem runActs_invariant {P : Channel → Prop} {ch : Ch} {acts : List Act} {s : State} (hs : P (s.chan ch))
    (hop : ∀ i, Act.op i ∈ acts → i.channel = ch → ∀ c, P c → P (opChan i c))
    (htick : ∀ la lb c, P c → P (tickChannel Config.params ch la lb c)) : P ((runActs acts s).chan ch) := by
  rw [runActs_chan]
  refine List.foldlRecOn acts _ hs fun c hc x hx => ?_
  cases x with
  | op i =>
    by_cases hi : i.channel = ch
    · simpa only [actChan, if_pos hi] using hop i hx hi c hc
    · simpa only [actChan, if_neg hi] using hc
  | tick y la lb =>
    by_cases hy : y = ch
    · simpa only [actChan, if_pos hy] using htick la lb c hc
    · simpa only [actChan, if_neg hy] using hc

/-- What a write does to the record of its channel. -/
theorem execNext_writeInstr_chan (r : Reg) (ch : Ch) (d : Word) (s : State) :
    (execNext (writeInstr r ch d) s).chan ch = opChan (writeInstr r ch d) (s.chan ch) := by
  simpa only [channel_writeInstr] using execNext_chan (writeInstr r ch d) s

/-! ## A Locked channel -/

/-- W.MODE on a Locked record reaches the latch alone (R122, R125). -/
theorem modeChan_locked (d : Word) {c : Channel} (h : Locked c) :
    modeChan d c = { c with wpen := if field d 2 1 = 1#1 then 0#1 else c.wpen } := by
  rw [modeChan, if_pos (show c.wpen = 1#1 from h)]
  split <;> rfl

/-- All that an operation other than the unlock write can do to its Locked channel: take free values, write the counter,
or write a pin-control register (R122, R123). -/
theorem opChan_locked_cases {ch : Ch} {i : Instr} {c : Channel} (hi : i.channel = ch) (hl : Locked c)
    (hu : unlocks ch i = false) :
    (∃ v k, opChan i c = { c with cnt := v, draws := k }) ∨
    (∃ d, i = .wPcrA ch d ∧ opChan i c = { c with pcrA := Pcr.ofWord d }) ∨
    (∃ d, i = .wPcrB ch d ∧ opChan i c = { c with pcrB := Pcr.ofWord d }) := by
  cases i with
  | wPcrA x d =>
    obtain rfl : x = ch := (channel_writeInstr .pcrA x d).symm.trans hi
    exact .inr (.inl ⟨d, rfl, rfl⟩)
  | wPcrB x d =>
    obtain rfl : x = ch := (channel_writeInstr .pcrB x d).symm.trans hi
    exact .inr (.inr ⟨d, rfl, rfl⟩)
  | wMode x d =>
    obtain rfl : x = ch := (channel_writeInstr .mode x d).symm.trans hi
    have hd : field d 2 1 ≠ 1#1 := by simpa [unlocks, field] using hu
    exact .inl ⟨_, _, (modeChan_locked d hl).trans (by rw [if_neg hd])⟩
  | wFms ch d =>
    have h : opChan (.wFms ch d) c = c := by rw [opChan, ← show c.wpen = 1#1 from hl, ite_self]
    exact .inl ⟨_, _, h⟩
  | wSc ch d | wMod ch d | wCntin ch d | wC0sc ch d | wC0v ch d | wC1sc ch d | wC1v ch d | wFilter ch d
  | wQdctrl ch d => exact .inl ⟨_, _, gatedChan_locked _ _ _ hl⟩
  | wCnt ch d | rPcrA ch | rPcrB ch | rMode ch | rFms ch | rSc ch | rMod ch | rCntin ch | rC0sc ch | rC0v ch | rC1sc ch
  | rC1v ch | rFilter ch | rQdctrl ch | rCnt ch => exact .inl ⟨_, _, rfl⟩

/-- Settles O20: neither an operation other than the unlock write nor a tick reaches the latch or a protected field. -/
theorem lockedStaysLocked : Obligations.LockedStaysLocked := by
  intro ch acts s hl hu
  have hs : sameProtected (s.chan ch) (s.chan ch) := ⟨rfl, rfl, rfl, rfl, rfl, rfl, rfl, rfl, rfl, rfl⟩
  refine runActs_invariant (P := fun c => Locked c ∧ sameProtected (s.chan ch) c) ⟨hl, hs⟩
    (fun i hi hch c hc => ?_) (fun la lb c hc => ?_)
  · rcases opChan_locked_cases hch hc.1 (hu i hi) with ⟨v, k, h⟩ | ⟨d, -, h⟩ | ⟨d, -, h⟩
    · rw [h]; exact hc
    · rw [h]; exact hc
    · rw [h]; exact hc
  · obtain ⟨v, fa, fb, na, nb, l, k, h⟩ := tickChannel_eq Config.params ch la lb c
    rw [h]
    exact hc

/-! ## A configured channel -/

/-- `PCR_INIT` writes the pin-control register of a configured phase (R102, R104, R230). -/
theorem ofWord_pcrInit (prm : Params) (ch : Ch) (p : Phase) : Pcr.ofWord (pcrInit prm ch p) = configuredPcr prm ch p := by
  unfold pcrInit configuredPcr
  generalize prm.altQd ch p = mux
  revert mux
  decide

/-- Settles O45: a configured channel is Locked, so the protected fields stay, and a pin-control write of PCR_INIT
stores what the register holds. -/
theorem configuredIsKept : Obligations.ConfiguredIsKept := by
  intro ch acts s hconf hacts
  refine runActs_invariant hconf (fun i hi hch c hc => ?_) (fun la lb c hc => ?_)
  · obtain ⟨hu, hp⟩ := hacts i hi
    rcases opChan_locked_cases hch hc.wpen hu with ⟨v, k, h⟩ | ⟨d, rfl, h⟩ | ⟨d, rfl, h⟩
    · rw [h]
      exact { hc with }
    · obtain rfl : d = pcrInit Config.params ch .a := by simpa [rewritesPins] using hp
      rw [h, ofWord_pcrInit]
      exact { hc with pcrA := rfl }
    · obtain rfl : d = pcrInit Config.params ch .b := by simpa [rewritesPins] using hp
      rw [h, ofWord_pcrInit]
      exact { hc with pcrB := rfl }
  · obtain ⟨v, fa, fb, na, nb, l, k, h⟩ := tickChannel_eq Config.params ch la lb c
    rw [h]
    exact { hc with }

/-! ## W.MODE -/

/-- W.MODE on a record that is not Locked stores the fields, and clears the latch where `d[2] = 1` (R125). -/
theorem modeChan_unlocked (d : Word) {c : Channel} (h : c.wpen = 0#1) :
    modeChan d c = { c with mode := Mode.ofWord d, wpen := if field d 2 1 = 1#1 then 0#1 else c.wpen } := by
  rw [modeChan, if_neg (show c.wpen ≠ 1#1 by rw [h]; decide)]
  split <;> rfl

/-- W.MODE with `d[2] = 1` leaves the latch 0 in every lock state (R125). -/
theorem modeChan_wpen {d : Word} (h : field d 2 1 = 1#1) (c : Channel) : (modeChan d c).wpen = 0#1 := by
  simp [modeChan, h]

/-- What W.MODE does to the record of its channel (R125). -/
theorem execNext_wMode_chan (ch : Ch) (d : Word) (s : State) :
    (execNext (.wMode ch d) s).chan ch = modeChan d (s.chan ch) :=
  execNext_writeInstr_chan .mode ch d s

/-- W.MODE is its gated part, then WPDIS, then the end of a write (R125). -/
theorem execNext_wMode (ch : Ch) (d : Word) (s : State) :
    execNext (.wMode ch d) s = finishWrite ch .mode d (wpdisStore ch d (modeStore ch d s)) := rfl

/-- W.MODE on a Locked channel is recorded as blocked, unless it unlocks (R125). -/
theorem execNext_wMode_locked (d : Word) {s : State} {ch : Ch} (h : Locked (s.chan ch)) :
    execNext (.wMode ch d) s = afterWrite s ch .mode d (modeChan d (s.chan ch))
      (if field d 2 1 = 0#1 then [.lockedWrite ch .mode] else []) [] := by
  rw [modeChan_locked d h, execNext_wMode, modeStore_locked ch d s h, wpdisStore]
  rcases bit_cases (field d 2 1) with hd | hd
  · simp [hd, finishWrite_record_eq_afterWrite]
  · simp [hd, finishWrite_setChan_eq_afterWrite]

/-- W.MODE on a channel that is not Locked refuses where it enables the fault interrupt (R125). -/
theorem execNext_wMode_unlocked (d : Word) {s : State} {ch : Ch} (h : (s.chan ch).wpen = 0#1) :
    execNext (.wMode ch d) s = afterWrite s ch .mode d (modeChan d (s.chan ch)) []
      (if field d 7 1 = 1#1 then [.interruptOutOfScope] else []) := by
  rw [modeChan_unlocked d h, execNext_wMode, modeStore_unlocked ch d s h, wpdisStore]
  rcases bit_cases (field d 2 1) with hd | hd
  · simp [hd, finishWrite_eq_afterWrite]
  · simp [hd, finishWrite_eq_afterWrite]

/-- Settles O14: in both lock states the record becomes `modeChan`, with the events and the refusals of that state. -/
theorem modeWrite : Obligations.ModeWrite := by
  intro s ch d c latch fields
  refine ⟨writeWordOf_writeInstr .mode ch d, fun h => ?_, fun h => ?_⟩
  · rw [exec_eq_next, execNext_wMode_locked d h, modeChan_locked d h]; rfl
  · rw [exec_eq_next, execNext_wMode_unlocked d h, modeChan_unlocked d h]; rfl

/-- W.MODE with `d[2] = 1` and `d[7] = 0` records its bus operation alone and refuses nothing, in every lock state. -/
theorem execNext_wMode_unlock {d : Word} (h2 : field d 2 1 = 1#1) (h7 : field d 7 1 = 0#1) (s : State) (ch : Ch) :
    execNext (.wMode ch d) s = afterWrite s ch .mode d (modeChan d (s.chan ch)) [] [] := by
  rcases bit_cases (s.chan ch).wpen with h | h
  · rw [execNext_wMode_unlocked d h, if_neg (by rw [h7]; decide)]
  · rw [execNext_wMode_locked d h, if_neg (by rw [h2]; decide)]

/-- A W.MODE after one with `d[2] = 1` finds its channel not Locked: it stores its fields. -/
theorem execNext_wMode_after_unlock {d : Word} (h : field d 2 1 = 1#1) (d' : Word) (s : State) (ch : Ch) :
    (execNext (.wMode ch d') (execNext (.wMode ch d) s)).chan ch =
      { modeChan d (s.chan ch) with mode := Mode.ofWord d', wpen := 0#1 } := by
  have hw := modeChan_wpen h (s.chan ch)
  rw [execNext_wMode_chan, execNext_wMode_chan, modeChan_unlocked d' hw, hw, ite_self]

/-- Settles O18: the first write clears the latch, so that the second one stores the fields. -/
theorem handshakeReachesOpen : Obligations.HandshakeReachesOpen := by
  intro s ch t
  have hchan : t.chan ch = _ := execNext_wMode_after_unlock (by decide) 0x5#32 s ch
  have hrun : t = _ := execNext_wMode_unlock (by decide) (by decide) _ ch
  refine ⟨?_, ?_, ?_, ?_⟩
  · rw [hchan]; exact ⟨rfl, rfl⟩
  · rw [hchan]; rfl
  · rw [hrun, execNext_wMode_unlock (by decide) (by decide)]; simp
  · rw [hrun, execNext_wMode_unlock (by decide) (by decide)]; simp

/-- Settles O19: the first write clears the latch, and the second one stores FTMEN = 0. -/
theorem reversedHandshakeLeavesHalfOpen : Obligations.ReversedHandshakeLeavesHalfOpen := by
  intro s ch _
  rw [execNext_wMode_after_unlock (by decide) 0x4#32 s ch]
  exact ⟨rfl, rfl⟩

/-! ## R.MODE and the accesses of FMS -/

/-- The read word of MODE, its fields from bit 31 down (R126). -/
theorem Mode.toWord_eq_append (x : Mode) (wpen init : Bit) :
    x.toWord wpen init = 0#24 ++ x.faultie ++ x.faultm ++ x.captest ++ x.pwmsync ++ (~~~wpen) ++ init ++ x.ftmen := by
  calc x.toWord wpen init
    _ = place _ (0#24 ++ x.faultie ++ x.faultm ++ x.captest ++ x.pwmsync ++ (~~~wpen) ++ init ++ x.ftmen) 0 := by
      simp only [place_append, place_zero, BitVec.zero_or]; rfl
    _ = _ := place_word _

/-- The read word of FMS, its fields from bit 31 down (R128). -/
theorem fmsWord_eq_append (wpen faultf : Bit) (faults : BitVec 6) :
    fmsWord wpen faultf faults = 0#24 ++ faultf ++ wpen ++ faults := by
  calc fmsWord wpen faultf faults
    _ = place _ (0#24 ++ faultf ++ wpen ++ faults) 0 := by
      simp only [place_append, place_zero, BitVec.zero_or]; rfl
    _ = _ := place_word _

/-- Settles O15: the read returns the word of MODE with the next free value as INIT, and spends that value. -/
theorem modeRead : Obligations.ModeRead := by
  intro s ch m init
  refine ⟨readWordOf_readInstr .mode ch, ?_⟩
  rw [exec, execRMode, finishRead_eq_afterRead, Mode.toWord_eq_append]
  rfl

/-- Settles O17: the read returns the latch among the next two free values, and spends both. -/
theorem fmsRead : Obligations.FmsRead := by
  intro s ch faultf faults
  refine ⟨readWordOf_readInstr .fms ch, ?_⟩
  rw [exec, execRFms, finishRead_eq_afterRead, fmsWord_eq_append]
  rfl

/-- W.FMS replaces the record of its channel, with the latch set where `d[6] = 1` (R127). -/
theorem wpenStore_eq (ch : Ch) (d : Word) (s : State) :
    wpenStore ch d s =
      s.setChan ch { s.chan ch with wpen := if field d 6 1 = 1#1 then 1#1 else (s.chan ch).wpen } := by
  unfold wpenStore
  split
  · rfl
  · exact (State.setChan_chan s ch).symm

/-- Settles O16: the write stores the latch and nothing else. -/
theorem fmsWrite : Obligations.FmsWrite := by
  intro s ch d
  refine ⟨writeWordOf_writeInstr .fms ch d, ?_⟩
  rw [exec, execWFms, wpenStore_eq, finishWrite_setChan_eq_afterWrite]
  rfl

/-! ## INIT without its handshake -/

/-- A write that is recorded as a LockedWrite where its channel is Locked: W.MODE unless it unlocks, and the writes of
the timer's registers (R125, R140). -/
def blockedWhenLocked : Instr → Bool
  | .wMode _ d => field d 2 1 == 0#1
  | .wSc _ _ | .wMod _ _ | .wCntin _ _ | .wC0sc _ _ | .wC0v _ _ | .wC1sc _ _ | .wC1v _ _ | .wFilter _ _
  | .wQdctrl _ _ => true
  | _ => false

/-- How many LockedWrite events the history holds. -/
def lockedWrites (s : State) : Nat := (s.hist.filter Event.isLockedWrite).length

@[simp] theorem lockedWrites_setChan (s : State) (ch : Ch) (c : Channel) :
    lockedWrites (s.setChan ch c) = lockedWrites s := by simp [lockedWrites]
@[simp] theorem lockedWrites_refuseIf (b : Bool) (r : RefuseReason) (s : State) :
    lockedWrites (refuseIf b r s) = lockedWrites s := by simp [lockedWrites]
@[simp] theorem lockedWrites_finishRead (ch : Ch) (reg : Reg) (r : Word) (s : State) :
    lockedWrites (finishRead ch reg r s) = lockedWrites s := by simp [lockedWrites, Event.isLockedWrite]
@[simp] theorem lockedWrites_finishWrite (ch : Ch) (reg : Reg) (d : Word) (s : State) :
    lockedWrites (finishWrite ch reg d s) = lockedWrites s := by simp [lockedWrites, Event.isLockedWrite]
@[simp] theorem lockedWrites_record_lockedWrite (ch : Ch) (reg : Reg) (s : State) :
    lockedWrites (record (.lockedWrite ch reg) s) = lockedWrites s + 1 := by
  simp [lockedWrites, Event.isLockedWrite, List.filter_cons]

/-- A gated write of a Locked channel records one LockedWrite (R140). -/
theorem lockedWrites_gatedWrite {ch : Ch} {s : State} (hl : Locked (s.chan ch)) (reg : Reg) (d : Word) (e : Bool)
    (store : Channel → Channel) : lockedWrites (gatedWrite ch reg d e store s) = lockedWrites s + 1 := by
  rw [gatedWrite, gatedStore_locked ch reg e store s hl, lockedWrites_finishWrite, lockedWrites_record_lockedWrite]

/-- A read records no LockedWrite. -/
theorem lockedWrites_execNext_readInstr (r : Reg) (ch : Ch) (s : State) :
    lockedWrites (execNext (readInstr r ch) s) = lockedWrites s := by
  cases r with
  | mod | cntin | c0v | c1v | filter | cnt => exact lockedWrites_finishRead ..
  | pcrA | pcrB | mode | fms | sc | c0sc | c1sc | qdctrl =>
    exact (lockedWrites_finishRead ..).trans (lockedWrites_setChan ..)

/-- A write of a Locked channel records one LockedWrite where it is blocked, and else none. -/
theorem lockedWrites_execNext_writeInstr (r : Reg) {ch : Ch} (d : Word) {s : State} (hl : Locked (s.chan ch)) :
    lockedWrites (execNext (writeInstr r ch d) s) =
      lockedWrites s + (blockedWhenLocked (writeInstr r ch d)).toNat := by
  cases r with
  | sc | mod | cntin | c0sc | c0v | c1sc | c1v | filter | qdctrl => exact lockedWrites_gatedWrite hl _ d _ _
  | mode =>
    rw [writeInstr, execNext_wMode_locked d hl]
    rcases bit_cases (field d 2 1) with hd | hd
    · simp [lockedWrites, blockedWhenLocked, Event.isLockedWrite, List.filter_cons, hd]
    · simp [lockedWrites, blockedWhenLocked, Event.isLockedWrite, hd]
  | pcrA | pcrB => simp [writeInstr, execNext, exec, execWPcrA, execWPcrB, blockedWhenLocked]
  | fms => simp [writeInstr, execNext, exec, execWFms, wpenStore_eq, blockedWhenLocked]
  | cnt => simp [writeInstr, execNext, exec, execWCnt, cntWrite, blockedWhenLocked]

/-- A read is never blocked (R141). -/
theorem blockedWhenLocked_readInstr (r : Reg) (ch : Ch) : blockedWhenLocked (readInstr r ch) = false := by
  cases r <;> rfl

/-- An operation of a Locked channel records one LockedWrite where it is blocked, and else none. -/
theorem lockedWrites_execNext {i : Instr} {s : State} (hl : Locked (s.chan i.channel)) :
    lockedWrites (execNext i s) = lockedWrites s + (blockedWhenLocked i).toNat := by
  rcases i.eq_readInstr_or_writeInstr with ⟨r, ch, rfl⟩ | ⟨r, ch, d, rfl⟩
  · rw [lockedWrites_execNext_readInstr, blockedWhenLocked_readInstr]; rfl
  · rw [channel_writeInstr] at hl
    exact lockedWrites_execNext_writeInstr r d hl

/-- Operations of a Locked channel, none of them its unlock write, record one LockedWrite for each that is blocked. -/
theorem lockedWrites_runActs_ops {ch : Ch} {ops : List Instr} {s : State} (hl : Locked (s.chan ch))
    (hops : ∀ i ∈ ops, i.channel = ch ∧ unlocks ch i = false) :
    lockedWrites (runActs (ops.map .op) s) = lockedWrites s + ops.countP blockedWhenLocked := by
  induction ops generalizing s with
  | nil => rfl
  | cons i ops ih =>
    obtain ⟨⟨hch, hu⟩, htail⟩ := List.forall_mem_cons.1 hops
    have hl' : Locked ((execNext i s).chan ch) := (lockedStaysLocked ch [.op i] s hl (by simpa using hu)).1
    rw [List.map_cons, runActs_cons, runAct, ih hl' htail, lockedWrites_execNext (by rwa [hch])]
    cases hb : blockedWhenLocked i <;> simp [hb, Nat.add_assoc, Nat.add_comm 1]

/-- INIT without its two MODE writes (R238). -/
def initOpsWithoutHandshake (prm : Params) (ch : Ch) : List Instr := (initOps prm ch).take 2 ++ (initOps prm ch).drop 4

/-- All of INIT but its two MODE writes is on `ch`, and none of it is the unlock write. -/
theorem initOpsWithoutHandshake_mem (prm : Params) (ch : Ch) :
    ∀ i ∈ initOpsWithoutHandshake prm ch, i.channel = ch ∧ unlocks ch i = false := by
  simp [initOpsWithoutHandshake, initOps, unlocks, Instr.channel, Instr.fields, writeFields]

/-- Writes 14 to 16 of INIT leave the counter of a Locked channel 0: the first one is not gated, the second one is
blocked, and the third one reaches the latch alone (R212). -/
theorem cnt_of_lastWrites {ch : Ch} {s : State} (hl : Locked (s.chan ch)) (q : Word) :
    ((runActs [.op (.wCnt ch 0#32), .op (.wQdctrl ch q), .op (.wFms ch 0x40#32)] s).chan ch).cnt = 0#16 := by
  let s1 := execNext (.wCnt ch 0#32) s
  let s2 := execNext (.wQdctrl ch q) s1
  have h1 : s1.chan ch = { s.chan ch with cnt := low16 0#32 } := execNext_writeInstr_chan .cnt ch 0#32 s
  have h2 : s2.chan ch = s1.chan ch :=
    (execNext_writeInstr_chan .qdctrl ch q s1).trans (gatedChan_locked _ _ _ (by rw [h1]; exact hl))
  have h3 : (execNext (.wFms ch 0x40#32) s2).chan ch = { s2.chan ch with wpen := 1#1 } :=
    execNext_writeInstr_chan .fms ch 0x40#32 s2
  calc ((execNext (.wFms ch 0x40#32) s2).chan ch).cnt
    _ = (s1.chan ch).cnt := by rw [h3, h2]
    _ = 0#16 := by rw [h1]; rfl

/-- Settles O46: ten of the fourteen writes are blocked, none is the unlock write, and W.CNT is not gated. -/
theorem skippedHandshakeIsIgnored : Obligations.SkippedHandshakeIsIgnored := by
  intro ch s hl ops t
  have hops : ∀ i ∈ ops, i.channel = ch ∧ unlocks ch i = false := initOpsWithoutHandshake_mem Config.params ch
  have hu (n : Nat) (i : Instr) (hi : Act.op i ∈ (ops.take n).map .op) : unlocks ch i = false := by
    obtain ⟨j, hj, hji⟩ := List.mem_map.1 hi
    cases hji
    exact (hops i (List.mem_of_mem_take hj)).2
  obtain ⟨hlt, hsame⟩ := lockedStaysLocked ch _ s hl (hu 14)
  obtain ⟨hl11, -⟩ := lockedStaysLocked ch _ s hl (hu 11)
  exact ⟨hlt, hsame, cnt_of_lastWrites hl11 _, lockedWrites_runActs_ops hl hops⟩

end Sys2Proof.Machine

/-! PROOFS. The statements on the timer configuration. -/

namespace Sys2Proof.Machine

/-! ## The gated writes -/

/-- Settles O21: each write is the gated store of the low 16 bits, and enables no interrupt. -/
theorem sixteenBitWrites : Obligations.SixteenBitWrites := by
  intro s ch d
  refine ⟨?_, ?_, ?_, ?_⟩
  · exact gatedWriteOf_of_gatedWrite (writeWordOf_writeInstr .mod ch d) rfl (by decide) rfl
  · exact gatedWriteOf_of_gatedWrite (writeWordOf_writeInstr .cntin ch d) rfl (by decide) rfl
  · exact gatedWriteOf_of_gatedWrite (writeWordOf_writeInstr .c0v ch d) rfl (by decide) rfl
  · exact gatedWriteOf_of_gatedWrite (writeWordOf_writeInstr .c1v ch d) rfl (by decide) rfl

/-- The interrupt enable of SC and CnSC is bit 6 of the data (R142, R148). -/
theorem enableBit6_iff (d : Word) : enableBit6 d = true ↔ d.extractLsb' 6 1 = 1#1 := by
  rw [enableBit6, bit_ne_zero, beq_iff_eq, field]

/-- Settles O22: each write is the gated store of its register's fields, and refuses where bit 6 enables an interrupt. -/
theorem statusControlWrites : Obligations.StatusControlWrites := by
  intro s ch d reasons x
  have hreasons : (if enableBit6 d then [.interruptOutOfScope] else []) = reasons :=
    if_congr (enableBit6_iff d) rfl rfl
  rw [← hreasons]
  refine ⟨?_, ?_, ?_⟩
  · exact gatedWriteOf_of_gatedWrite (writeWordOf_writeInstr .sc ch d) rfl (by decide) rfl
  · exact gatedWriteOf_of_gatedWrite (writeWordOf_writeInstr .c0sc ch d) rfl (by decide) rfl
  · exact gatedWriteOf_of_gatedWrite (writeWordOf_writeInstr .c1sc ch d) rfl (by decide) rfl

/-- Settles O23: each write is one gated store of all fields of its register, and enables no interrupt. -/
theorem filterAndDecoderWrites : Obligations.FilterAndDecoderWrites := by
  intro s ch d q
  refine ⟨?_, ?_⟩
  · exact gatedWriteOf_of_gatedWrite (writeWordOf_writeInstr .filter ch d) rfl (by decide) rfl
  · exact gatedWriteOf_of_gatedWrite (writeWordOf_writeInstr .qdctrl ch d) rfl (by decide) rfl

/-! ## The words of the reads -/

/-- A 16-bit field zero-extended has sixteen zeros above it (R145). -/
theorem zext16_eq_append (v : BitVec 16) : zext16 v = 0#16 ++ v :=
  BitVec.setWidth_eq_append (by decide)

/-- The read word of SC, its fields from bit 31 down (R143). -/
theorem Sc.toWord_eq_append (x : Sc) (tof : Bit) :
    x.toWord tof = 0#24 ++ tof ++ x.toie ++ x.cpwms ++ x.clks ++ x.ps := by
  calc x.toWord tof
    _ = place _ (0#24 ++ tof ++ x.toie ++ x.cpwms ++ x.clks ++ x.ps) 0 := by
      simp only [place_append, place_zero, BitVec.zero_or]; rfl
    _ = _ := place_word _

/-- The read word of C0SC and C1SC, its fields and its reserved bits from bit 31 down (R149, R153). -/
theorem Cnsc.toWord_eq_append (x : Cnsc) (chf : Bit) :
    x.toWord chf = 0#24 ++ chf ++ x.chie ++ x.msb ++ x.msa ++ x.elsb ++ x.elsa ++ 0#1 ++ x.dma := by
  calc x.toWord chf
    _ = place _ (0#24 ++ chf ++ x.chie ++ x.msb ++ x.msa ++ x.elsb ++ x.elsa ++ 0#1 ++ x.dma) 0 := by
      simp only [place_append, place_zero, BitVec.zero_or, BitVec.or_zero]; rfl
    _ = _ := place_word _

/-- The read word of FILTER, its fields from bit 31 down (R157). -/
theorem Filter.toWord_eq_append (x : Filter) : x.toWord = 0#24 ++ x.ch1fval ++ x.ch0fval := by
  calc x.toWord
    _ = place _ (0#24 ++ x.ch1fval ++ x.ch0fval) 0 := by
      simp only [place_append, place_zero, BitVec.zero_or]; rfl
    _ = _ := place_word _

/-- The read word of QDCTRL, its fields from bit 31 down (R159). -/
theorem Qdctrl.toWord_eq_append (x : Qdctrl) (quadir tofdir : Bit) :
    x.toWord quadir tofdir = 0#24 ++ x.phafltren ++ x.phbfltren ++ x.phapol ++ x.phbpol ++ x.quadmode ++ quadir ++
      tofdir ++ x.quaden := by
  calc x.toWord quadir tofdir
    _ = place _ (0#24 ++ x.phafltren ++ x.phbfltren ++ x.phapol ++ x.phbpol ++ x.quadmode ++ quadir ++
          tofdir ++ x.quaden) 0 := by
      simp only [place_append, place_zero, BitVec.zero_or]; rfl
    _ = _ := place_word _

/-! ## The reads -/

/-- Settles O24: each read returns its field zero-extended, and takes no free value. -/
theorem sixteenBitReads : Obligations.SixteenBitReads := by
  intro s ch
  refine ⟨readWordOf_readInstr .mod ch, readWordOf_readInstr .cntin ch, readWordOf_readInstr .c0v ch,
    readWordOf_readInstr .c1v ch, ?_, ?_, ?_, ?_⟩
  · rw [exec, execRMod, finishRead_eq_afterRead_zero, zext16_eq_append]
  · rw [exec, execRCntin, finishRead_eq_afterRead_zero, zext16_eq_append]
  · rw [exec, execRC0v, finishRead_eq_afterRead_zero, zext16_eq_append]
  · rw [exec, execRC1v, finishRead_eq_afterRead_zero, zext16_eq_append]

/-- Settles O25: each read returns the word of its register with the next free value as bit 7, and spends that value. -/
theorem statusControlReads : Obligations.StatusControlReads := by
  intro s ch x flag word
  have hword (y : Cnsc) : y.toWord (drawFlag ch (s.chan ch) 0) = word y := y.toWord_eq_append flag
  refine ⟨readWordOf_readInstr .sc ch, readWordOf_readInstr .c0sc ch, readWordOf_readInstr .c1sc ch, ?_, ?_, ?_⟩
  · rw [exec, execRSc, finishRead_eq_afterRead, Sc.toWord_eq_append]; rfl
  · rw [exec, execRC0sc, finishRead_eq_afterRead, hword]
  · rw [exec, execRC1sc, finishRead_eq_afterRead, hword]

/-- Settles O26: FILTER's read takes no free value; QDCTRL's read has the next two as bits 2 and 1, and spends both. -/
theorem filterAndDecoderReads : Obligations.FilterAndDecoderReads := by
  intro s ch q quadir tofdir
  refine ⟨readWordOf_readInstr .filter ch, readWordOf_readInstr .qdctrl ch, ?_, ?_⟩
  · rw [exec, execRFilter, finishRead_eq_afterRead_zero, Filter.toWord_eq_append]
  · rw [exec, execRQdctrl, finishRead_eq_afterRead, Qdctrl.toWord_eq_append]; rfl

end Sys2Proof.Machine

/-! PROOFS. The statements on quadrature decoding. -/

namespace Sys2Proof.Machine

/-! ## The pulse filter of one phase -/

/-- The filter of a phase is on: enabled, with a filter value other than 0 (R184). -/
def Channel.filterOn (c : Channel) (p : Phase) : Prop := c.filterEnable p = 1#1 ∧ c.filterValue p ≠ 0#4

/-- A filter that is not on passes its samples through (R184). -/
theorem not_filterOn_iff (c : Channel) (p : Phase) :
    ¬ c.filterOn p ↔ c.filterEnable p = 0#1 ∨ c.filterValue p = 0#4 := by
  rcases bit_cases (c.filterEnable p) with h | h <;> simp [Channel.filterOn, h]

/-- The sample of a new level reaches the candidate's count (R184). -/
theorem filterPhase_candidate (prm : Params) (ch : Ch) {p : Phase} {x : Bit} {c : Channel} (hon : c.filterOn p)
    (hx : x ≠ c.fout p) : filterPhase prm ch p x c = filterCandidate prm ch p x (c.fcnt p + 1) c := by
  rw [filterPhase, if_neg (mt (not_filterOn_iff c p).2 (not_not_intro hon)), if_neg hx]

/-- From `T + FILTER_SLACK` on a new level is accepted (R184). -/
theorem filterCandidate_accepted {prm : Params} (ch : Ch) {p : Phase} (x : Bit) {n : Nat} {c : Channel}
    (h : threshold prm c p + prm.filterSlack ≤ n) : filterCandidate prm ch p x n c = c.setFilter p x 0 :=
  if_pos h

/-- In the band from `T` the next free value decides (R184). -/
theorem filterCandidate_band {prm : Params} (ch : Ch) {p : Phase} (x : Bit) {n : Nat} {c : Channel}
    (hlo : threshold prm c p ≤ n) (hhi : n < threshold prm c p + prm.filterSlack) :
    filterCandidate prm ch p x n c =
      if drawBool ch c then (c.spend 1).setFilter p x 0 else (c.spend 1).setFilter p (c.fout p) n := by
  rw [filterCandidate, if_neg (Nat.not_le.2 hhi), if_pos hlo]

/-- Below `T` a new level is counted (R184). -/
theorem filterCandidate_counted {prm : Params} (ch : Ch) {p : Phase} (x : Bit) {n : Nat} {c : Channel}
    (h : n < threshold prm c p) : filterCandidate prm ch p x n c = c.setFilter p (c.fout p) n := by
  rw [filterCandidate, if_neg (by omega), if_neg (Nat.not_le.2 h)]

/-- All that a filter can do with a sample (R184): the output takes it and the count is 0, which a filter that is on does
with a new level only from `T` on; or a new level is counted, to less than `T + FILTER_SLACK`. -/
theorem filterPhase_cases (prm : Params) (ch : Ch) (p : Phase) (x : Bit) (c : Channel) :
    ∃ k, (filterPhase prm ch p x c = (c.spend k).setFilter p x 0 ∧
        (c.filterOn p → x ≠ c.fout p → threshold prm c p ≤ c.fcnt p + 1)) ∨
      (filterPhase prm ch p x c = (c.spend k).setFilter p (c.fout p) (c.fcnt p + 1) ∧ x ≠ c.fout p ∧
        c.fcnt p + 1 < threshold prm c p + prm.filterSlack) := by
  by_cases hon : c.filterOn p
  case neg => exact ⟨0, .inl ⟨filterPhase_off prm ch p x ((not_filterOn_iff c p).1 hon), fun h => absurd h hon⟩⟩
  by_cases hx : x = c.fout p
  case pos => subst hx; exact ⟨0, .inl ⟨filterPhase_settled prm ch p c, fun _ h => absurd rfl h⟩⟩
  rw [filterPhase_candidate prm ch hon hx]
  rcases Nat.lt_or_ge (c.fcnt p + 1) (threshold prm c p) with hlo | hlo
  · exact ⟨0, .inr ⟨filterCandidate_counted ch x hlo, hx, by omega⟩⟩
  rcases Nat.lt_or_ge (c.fcnt p + 1) (threshold prm c p + prm.filterSlack) with hhi | hhi
  · rw [filterCandidate_band ch x hlo hhi]
    split
    · exact ⟨1, .inl ⟨rfl, fun _ _ => hlo⟩⟩
    · exact ⟨1, .inr ⟨rfl, hx, hhi⟩⟩
  · exact ⟨0, .inl ⟨filterCandidate_accepted ch x hhi, fun _ _ => hlo⟩⟩

/-- Settles O32: the branches of the filter for each phase, and that a tick's counter part leaves the filters alone. -/
theorem pulseFilter : Obligations.PulseFilter := by
  refine ⟨fun prm ch p x c => ?_, fun prm ch la lb c => tickChannel_filter prm ch la lb c⟩
  intro value enable out left n thr on spent
  have hvalue : c.filterValue p = value := by cases p <;> rfl
  have henable : c.filterEnable p = enable := by cases p <;> rfl
  have hout : c.fout p = out := by cases p <;> rfl
  have hn : c.fcnt p + 1 = n := by cases p <;> rfl
  have hleft (d : Channel) (fout : Bit) (fcnt : Nat) : left d fout fcnt = d.setFilter p fout fcnt := by cases p <;> rfl
  have hthr : threshold prm c p = thr := by rw [threshold, hvalue]
  have hon : c.filterOn p ↔ on := by rw [Channel.filterOn, hvalue, henable]
  have hdraw : drawBool ch c = true ↔ Config.freeValue 1 ch c.draws = 1#1 := by simp [drawBool, drawBits]
  have hspent : c.spend 1 = spent := rfl
  simp only [hleft, ← hon, ← hthr, ← hout, ← hn, ← hdraw, ← hspent]
  refine ⟨fun h => filterPhase_off prm ch p x ((not_filterOn_iff c p).1 h), fun _ hx => hx ▸ filterPhase_settled prm ch p c,
    fun h hx hhi => ?_, fun h hx hlo hhi => ?_, fun h hx hlo => ?_⟩
  · rw [filterPhase_candidate prm ch h hx, filterCandidate_accepted ch x hhi]
  · rw [filterPhase_candidate prm ch h hx, filterCandidate_band ch x hlo hhi]
  · rw [filterPhase_candidate prm ch h hx, filterCandidate_counted ch x hlo]

/-! ## The filter counts stay below the largest acceptance threshold -/

/-- The bound on the filter counts, phase by phase. -/
theorem filterCountsBounded_iff (prm : Params) (c : Channel) :
    FilterCountsBounded prm c ↔ ∀ p, c.fcnt p < prm.filterScale * 15 + prm.filterSlack :=
  ⟨fun h p => by cases p; exacts [h.1, h.2], fun h => ⟨h .a, h .b⟩⟩

/-- A filter value is 15 at most, so no threshold is above `FILTER_SCALE × 15` (R184). -/
theorem threshold_le (prm : Params) (c : Channel) (p : Phase) : threshold prm c p ≤ prm.filterScale * 15 :=
  Nat.mul_le_mul_left _ (Nat.le_of_lt_succ (c.filterValue p).isLt)

/-- A filter resets its count, or counts below its own acceptance threshold (R184). -/
theorem filterPhase_bounded {prm : Params} (hpos : 0 < prm.filterScale) (ch : Ch) (p : Phase) (x : Bit) {c : Channel}
    (h : FilterCountsBounded prm c) : FilterCountsBounded prm (filterPhase prm ch p x c) := by
  rw [filterCountsBounded_iff] at h ⊢
  intro q
  have hthr := threshold_le prm c p
  by_cases hq : q = p
  · subst hq
    obtain ⟨k, ⟨hf, -⟩ | ⟨hf, -, hlt⟩⟩ := filterPhase_cases prm ch q x c
    · rw [hf, Channel.setFilter_fcnt_same]; omega
    · rw [hf, Channel.setFilter_fcnt_same]; omega
  · obtain ⟨k, fout, fcnt, hf⟩ := filterPhase_eq prm ch p x c
    rw [hf, Channel.setFilter_fcnt_other _ _ _ hq, Channel.spend_fcnt]
    exact h q

/-- A tick keeps the bound: the samples take free values, the filters count, and the counter's part leaves the counts. -/
theorem tickChannel_bounded {prm : Params} (hpos : 0 < prm.filterScale) (ch : Ch) (la lb : Level) {c : Channel}
    (h : FilterCountsBounded prm c) : FilterCountsBounded prm (tickChannel prm ch la lb c) := by
  have hf : FilterCountsBounded prm (filterTick prm ch la lb c) := by
    obtain ⟨k, ha⟩ := decIn_spends prm ch .a la c
    obtain ⟨m, hb⟩ := decIn_spends prm ch .b lb (decIn prm ch .a la c).2
    refine filterPhase_bounded hpos ch .b _ (filterPhase_bounded hpos ch .a _ ?_)
    rw [hb, ha]
    exact h
  obtain ⟨-, -, ha, hb⟩ := tickChannel_filter prm ch la lb c
  rwa [FilterCountsBounded, ha, hb]

/-- The gate takes no free value, or one (R120). -/
theorem gate_spends (ch : Ch) (reg : Reg) (c : Channel) : ∃ k, (gate ch reg c).2 = c.spend k := by
  unfold gate
  split
  · exact ⟨0, rfl⟩
  split
  · exact ⟨0, rfl⟩
  split
  · exact ⟨0, rfl⟩
  · exact ⟨1, rfl⟩

/-- All that a gated write can do to its channel's record (R120, R140). -/
theorem gatedChan_cases (ch : Ch) (reg : Reg) (store : Channel → Channel) (c : Channel) :
    ∃ k, gatedChan ch reg store c = store (c.spend k) ∨ gatedChan ch reg store c = c.spend k := by
  obtain ⟨k, hk⟩ := gate_spends ch reg c
  refine ⟨k, ?_⟩
  unfold gatedChan
  split
  · next d hd => left; rw [← hk, hd]
  · next d hd => right; rw [← hk, hd]

/-- A gated write leaves the filter counts alone where its store does. -/
theorem gatedChan_fcnt (ch : Ch) (reg : Reg) {store : Channel → Channel}
    (hstore : ∀ c, (store c).fcntA = c.fcntA ∧ (store c).fcntB = c.fcntB) (c : Channel) :
    (gatedChan ch reg store c).fcntA = c.fcntA ∧ (gatedChan ch reg store c).fcntB = c.fcntB := by
  obtain ⟨k, h | h⟩ := gatedChan_cases ch reg store c
  · rw [h]; exact hstore (c.spend k)
  · rw [h]; exact ⟨rfl, rfl⟩

/-- No operation reaches the filter counts (R35). -/
theorem opChan_fcnt (i : Instr) (c : Channel) : (opChan i c).fcntA = c.fcntA ∧ (opChan i c).fcntB = c.fcntB := by
  cases i with
  | wMode ch d =>
    rcases bit_cases c.wpen with h | h
    · rw [opChan, modeChan_unlocked d h]; exact ⟨rfl, rfl⟩
    · rw [opChan, modeChan_locked d h]; exact ⟨rfl, rfl⟩
  | wFms ch d => rw [opChan]; split <;> exact ⟨rfl, rfl⟩
  | wSc ch d | wMod ch d | wCntin ch d | wC0sc ch d | wC0v ch d | wC1sc ch d | wC1v ch d | wFilter ch d
  | wQdctrl ch d => exact gatedChan_fcnt _ _ (by intro _; exact ⟨rfl, rfl⟩) c
  | wPcrA ch d | wPcrB ch d | wCnt ch d | rPcrA ch | rPcrB ch | rMode ch | rFms ch | rSc ch | rMod ch | rCntin ch
  | rC0sc ch | rC0v ch | rC1sc ch | rC1v ch | rFilter ch | rQdctrl ch | rCnt ch => exact ⟨rfl, rfl⟩

/-- What every operation and every tick keeps of each channel's record, every step keeps. -/
theorem step_chan_invariant {P : Channel → Prop} (hop : ∀ i c, P c → P (opChan i c))
    (htick : ∀ ch la lb c, P c → P (tickChannel Config.params ch la lb c)) {s t : State} (hs : ∀ ch, P (s.chan ch))
    (h : step s = .next t) (ch : Ch) : P (t.chan ch) := by
  have hact (x : Act) (u : State) (hu : ∀ ch, P (u.chan ch)) : P ((runAct u x).chan ch) := by
    rw [runAct_chan]
    cases x with
    | op i => rw [actChan]; split; exacts [hop i _ (hu ch), hu ch]
    | tick y la lb => rw [actChan]; split; exacts [htick ch la lb _ (hu ch), hu ch]
  obtain ⟨u, ⟨sc, rfl⟩, ⟨y, la, lb, rfl⟩ | ⟨w, i, -, -, rfl⟩ | ⟨w, e, -, -, rfl⟩ | ⟨-, rfl⟩⟩ := step_cases h
  · exact hact (.tick y la lb) _ fun x => by cases x; exacts [hs .ch0, hs .ch1]
  · exact hact (.op i) _ fun x => by cases x; exacts [hs .ch0, hs .ch1]
  · cases ch; exacts [hs .ch0, hs .ch1]
  · cases ch; exacts [hs .ch0, hs .ch1]

/-- Settles O53: no operation reaches a count, and a tick resets it or counts below the phase's own threshold. -/
theorem stepKeepsFilterCountsBounded : Obligations.StepKeepsFilterCountsBounded := by
  intro s t hs h
  refine step_chan_invariant (P := FilterCountsBounded Config.params) (fun i c hc => ?_)
    (fun ch la lb c => tickChannel_bounded filterScale_pos ch la lb) hs h
  obtain ⟨ha, hb⟩ := opChan_fcnt i c
  rwa [FilterCountsBounded, ha, hb]

/-! ## A tick of the script -/

/-- A step whose turn is a tick's is that tick, with its move off the script (log 1). -/
theorem step_of_tick {s : State} {ch : Ch} {la lb : Level} {rest : List Move} (h : s.script = .tick ch la lb :: rest) :
    step s = .next (tick ch la lb { s with script := rest }) := by
  rw [step, turn, h]

/-- Settles O7: the step is one tick of the record, and a tick leaves the other record and the host alone. -/
theorem stepTakesScriptedTick : Obligations.StepTakesScriptedTick := by
  intro s ch la lb rest h
  have hchan (x : Ch) : State.chan { s with script := rest } x = s.chan x := by cases x <;> rfl
  refine ⟨_, step_of_tick h, ?_, fun x hx => ?_, tick_pc .., tick_refusals .., tick_hist .., tick_results ..,
    tick_program .., tick_script ..⟩
  · rw [tick_chan_same, hchan]
  · rw [tick_chan_other la lb _ hx, hchan]

/-! ## What a tick leaves -/

/-- The counter's part of a tick takes free values and gives none back. -/
theorem countTick_draws_le (ch : Ch) (d : Delta) (c : Channel) : c.draws ≤ (countTick ch d c).draws := by
  rcases countTick_eq ch d c with ⟨v, h⟩ | h
  · rw [h]
  · rw [h]; exact Nat.le_succ c.draws

/-- A tick takes free values and gives none back (log 3). -/
theorem tickChannel_draws_le (prm : Params) (ch : Ch) (la lb : Level) (c : Channel) :
    c.draws ≤ (tickChannel prm ch la lb c).draws := by
  refine le_trans ?_ (countTick_draws_le ch _ (filterTick prm ch la lb c).relatch)
  obtain ⟨k, fa, na, fb, nb, hf⟩ := filterTick_eq prm ch la lb c
  rw [hf]
  exact Nat.le_add_right c.draws k

/-- Settles O31: a tick writes the counter and the hidden state, and no other field. -/
theorem tickChangesOnlyCounterAndHiddenState : Obligations.TickChangesOnlyCounterAndHiddenState := by
  intro prm ch la lb c t
  refine ⟨?_, tickChannel_draws_le prm ch la lb c⟩
  obtain ⟨v, fa, fb, na, nb, l, k, h⟩ := tickChannel_eq prm ch la lb c
  rw [show t = _ from h]

/-- The pair depends on the two outputs and on QDCTRL alone (R185). -/
theorem pair_congr {c d : Channel} (ha : d.foutA = c.foutA) (hb : d.foutB = c.foutB) (hq : d.qdctrl = c.qdctrl) :
    d.pair = c.pair := by
  rw [Channel.pair, Channel.pair, ha, hb, hq]

/-- The new latch leaves the pair. -/
theorem relatch_pair (c : Channel) : c.relatch.pair = c.pair := rfl

/-- The counter's part of a tick leaves the pair. -/
theorem countTick_pair (ch : Ch) (d : Delta) (c : Channel) : (countTick ch d c).pair = c.pair := by
  obtain ⟨-, ha, hb, -, -, hq⟩ := countTick_hidden ch d c
  exact pair_congr ha hb hq

/-- The pair after a tick is that of its filters. -/
theorem tickChannel_pair (prm : Params) (ch : Ch) (la lb : Level) (c : Channel) :
    (tickChannel prm ch la lb c).pair = (filterTick prm ch la lb c).pair := by
  simp only [tickChannel]
  rw [countTick_pair, relatch_pair]

/-- After every tick the latch holds the pair (R185, R36). -/
theorem tickChannel_latch (prm : Params) (ch : Ch) (la lb : Level) (c : Channel) :
    (tickChannel prm ch la lb c).latch = some (tickChannel prm ch la lb c).pair := by
  obtain ⟨hl, -⟩ := countTick_hidden ch (filterTick prm ch la lb c).delta (filterTick prm ch la lb c).relatch
  rw [tickChannel_pair]
  exact hl

/-- The transition that the decoder counts where the pair becomes `next`: none from no latch (R185). -/
def Channel.transitionTo (c : Channel) (next : BitVec 2) : Delta :=
  match c.latch with
  | none => .zero
  | some prev => qd prev next

/-! ## The mode of a tick -/

/-- Active, field by field (R180). -/
theorem active_iff (c : Channel) : c.active = true ↔ c.qdctrl.quaden = 1#1 ∧ c.mode.ftmen = 1#1 := by
  simp [Channel.active]

/-- Exact, field by field (R180). -/
theorem exact_iff (c : Channel) : c.exact = true ↔
    c.qdctrl.quadmode = 0#1 ∧ c.sc.cpwms = 0#1 ∧ c.sc.clks = 0#2 ∧ c.sc.ps = 0#3 ∧ c.mode.faultm = 0#2 ∧
      c.mode.captest = 0#1 := by
  simp [Channel.exact, and_assoc]

/-- Active and Exact: the counter update (R187). -/
theorem countTick_counts (ch : Ch) (d : Delta) {c : Channel} (ha : c.active = true) (he : c.exact = true) :
    countTick ch d c = count ch d c := by
  simp [countTick, ha, he]

/-- Active and not Exact: a free value (R181). -/
theorem countTick_inexact (ch : Ch) (d : Delta) {c : Channel} (ha : c.active = true) (he : ¬ c.exact = true) :
    countTick ch d c = drawCount ch c := by
  simp [countTick, ha, he]

/-- Not Active, and the timer may count: a free value (R182). -/
theorem countTick_inactive (ch : Ch) (d : Delta) {c : Channel} (ha : ¬ c.active = true)
    (hs : ¬ (c.qdctrl.quaden = 0#1 ∧ c.sc.clks = 0#2)) : countTick ch d c = drawCount ch c := by
  simp_all [countTick]

/-- A draw of the counter is fresh since any record with no more free values taken. -/
theorem freshCount_drawCount (ch : Ch) {before c : Channel} (h : before.draws ≤ c.draws) :
    FreshCount ch before (drawCount ch c) := ⟨c.draws, h, rfl, rfl⟩

/-- A tick is the counter's part on the transition from the latch before it to the pair after it, of a record with the
counter, its range, the mode and no fewer free values taken (R187). -/
theorem tickChannel_eq_countTick (prm : Params) (ch : Ch) (la lb : Level) (c : Channel) :
    ∃ d : Channel, tickChannel prm ch la lb c = countTick ch (c.transitionTo (tickChannel prm ch la lb c).pair) d ∧
      d.cnt = c.cnt ∧ d.cntin = c.cntin ∧ d.mod = c.mod ∧ c.draws ≤ d.draws ∧ d.active = c.active ∧ d.exact = c.exact ∧
      d.qdctrl = c.qdctrl ∧ d.sc = c.sc := by
  obtain ⟨k, fa, na, fb, nb, hf⟩ := filterTick_eq prm ch la lb c
  refine ⟨(filterTick prm ch la lb c).relatch, ?_, ?_⟩
  · have hl : (filterTick prm ch la lb c).latch = c.latch := by rw [hf]
    rw [tickChannel_pair, Channel.transitionTo, ← hl]
    rfl
  · rw [hf]
    exact ⟨rfl, rfl, rfl, Nat.le_add_right c.draws k, rfl, rfl, rfl, rfl⟩

/-- Settles O34: the counter's part keeps the latch that the tick sets, and from no latch it counts nothing. -/
theorem latchFollowsThePair : Obligations.LatchFollowsThePair := by
  intro prm ch la lb c t
  refine ⟨?_, fun hl ha he => ?_⟩
  · have h : t.latch = some t.pair := tickChannel_latch prm ch la lb c
    rw [h, Channel.pair, show t.qdctrl = c.qdctrl from (tickChannel_config prm ch la lb c).1]
  · obtain ⟨d, ht, hcnt, -, -, -, hactive, hexact, -⟩ := tickChannel_eq_countTick prm ch la lb c
    rw [show t = _ from ht, Channel.transitionTo, hl, countTick_counts ch _ (hactive ▸ ha) (hexact ▸ he)]
    exact hcnt

/-- Settles O36: the filters leave the fields that the mode reads and that the counter's part works on. -/
theorem counterModeOfATick : Obligations.CounterModeOfATick := by
  intro prm ch la lb c t active exactly
  obtain ⟨d, ht, hcnt, hcntin, hmod, hdraws, hactive, hexact, hqdctrl, hsc⟩ := tickChannel_eq_countTick prm ch la lb c
  have hactive : d.active = true ↔ active := by rw [hactive]; exact active_iff c
  have hexact : d.exact = true ↔ exactly := by rw [hexact]; exact exact_iff c
  refine ⟨fun ha he => ⟨d, hcnt, hcntin, hmod, ?_⟩, fun ha he => ?_,
    fun hq hk => tickChannel_cnt_stopped prm ch la lb hq hk, fun ha hs => ?_⟩
  · rw [show t.latch = some t.pair from tickChannel_latch prm ch la lb c]
    refine (ht.trans (countTick_counts ch _ (hactive.2 ha) (hexact.2 he))).trans ?_
    rw [Channel.transitionTo]
    cases c.latch <;> rfl
  · rw [show t = _ from ht, countTick_inexact ch _ (hactive.2 ha) (mt hexact.1 he)]
    exact freshCount_drawCount ch hdraws
  · rw [show t = _ from ht, countTick_inactive ch _ (mt hactive.1 ha) (by rw [hqdctrl, hsc]; exact hs)]
    exact freshCount_drawCount ch hdraws

/-! ## The counter update -/

/-- The free-running range (R186). -/
theorem fullRange_iff (c : Channel) : c.fullRange = true ↔ c.cntin = 0x0000#16 ∧ c.mod = 0xFFFF#16 := by
  simp [Channel.fullRange]

/-- The counter lies in the reload range, read unsigned (R186). -/
theorem inRange_iff (c : Channel) :
    c.inRange = true ↔ c.cntin.toNat ≤ c.cnt.toNat ∧ c.cnt.toNat ≤ c.mod.toNat := by
  simp [Channel.inRange, BitVec.le_def]

/-- In the full range a legal transition adds its value, modulo 65536 (R186). -/
theorem count_of_fullRange (ch : Ch) {d : Delta} {v : BitVec 16} {c : Channel} (hf : c.fullRange = true)
    (hv : deltaValue d = some v) : count ch d c = { c with cnt := c.cnt + v } := by
  cases d with
  | zero => obtain rfl : 0#16 = v := by simpa [deltaValue] using hv
            simp [count]
  | up => obtain rfl : 1#16 = v := by simpa [deltaValue] using hv
          exact if_pos hf
  | down => obtain rfl : -1#16 = v := by simpa [deltaValue] using hv
            rw [← BitVec.sub_eq_add_neg]
            exact if_pos hf
  | ill => cases hv

/-- Settles O35: the branches of the update. -/
theorem counterUpdate : Obligations.CounterUpdate := by
  intro ch c free within
  have hfree : c.fullRange = true ↔ free := fullRange_iff c
  have hwithin : c.inRange = true ↔ within := inRange_iff c
  refine ⟨rfl, freshCount_drawCount ch le_rfl, fun hf => ?_, fun hf hw => ?_, fun hf hw => ?_⟩
  · exact ⟨if_pos (hfree.2 hf), if_pos (hfree.2 hf)⟩
  · have hf := mt hfree.1 hf
    have hw := hwithin.2 hw
    exact ⟨(if_neg hf).trans (if_pos hw), (if_neg hf).trans (if_pos hw)⟩
  · have hf := mt hfree.1 hf
    have hw := mt hwithin.1 hw
    have hup : count ch .up c = drawCount ch c := (if_neg hf).trans (if_neg hw)
    have hdown : count ch .down c = drawCount ch c := (if_neg hf).trans (if_neg hw)
    rw [hup, hdown]
    exact ⟨freshCount_drawCount ch le_rfl, freshCount_drawCount ch le_rfl⟩

/-- Settles O33: the sixteen entries of the table. -/
theorem decoderTable : Obligations.DecoderTable := by
  unfold Obligations.DecoderTable
  decide

/-! ## A configured channel counts -/

/-- A configured channel is Active and Exact, and its counter runs over the full range. -/
theorem Configured.counts {prm : Params} {ch : Ch} {c : Channel} (h : Configured prm ch c) :
    c.active = true ∧ c.exact = true ∧ c.fullRange = true := by
  simp [active_iff, exact_iff, fullRange_iff, h.qdctrl, configuredQdctrl, h.mode, h.sc, h.cntin, h.mod]

/-- A tick of a configured channel adds the value of its transition to the counter. -/
theorem Configured.tick_cnt {prm : Params} {ch : Ch} {c : Channel} (h : Configured prm ch c) {prev : BitVec 2}
    (hl : c.latch = some prev) (la lb : Level) {v : BitVec 16}
    (hv : deltaValue (qd prev (tickChannel prm ch la lb c).pair) = some v) :
    (tickChannel prm ch la lb c).cnt = c.cnt + v := by
  obtain ⟨ha, he, hf⟩ := h.counts
  obtain ⟨d, ht, hcnt, hcntin, hmod, -, hactive, hexact, -⟩ := tickChannel_eq_countTick prm ch la lb c
  have hrange : d.fullRange = true := by rwa [fullRange_iff, hcntin, hmod, ← fullRange_iff]
  have htrans : c.transitionTo (tickChannel prm ch la lb c).pair = qd prev (tickChannel prm ch la lb c).pair := by
    rw [Channel.transitionTo, hl]
  rw [ht, countTick_counts ch _ (hactive ▸ ha) (hexact ▸ he), count_of_fullRange ch hrange (htrans ▸ hv), hcnt]

/-- Settles O37: the values of a forward, a reverse and no change. -/
theorem configuredTickCounts : Obligations.ConfiguredTickCounts := by
  intro prm ch la lb c prev h hl t
  refine ⟨fun hq => ?_, fun hq => ?_, fun hq => ?_⟩
  · exact h.tick_cnt hl la lb (v := 1#16) (by rw [hq]; rfl)
  · rw [BitVec.sub_eq_add_neg]
    exact h.tick_cnt hl la lb (v := -1#16) (by rw [hq]; rfl)
  · rw [← BitVec.add_zero c.cnt]
    exact h.tick_cnt hl la lb (v := 0#16) (by rw [hq]; rfl)

/-- One up in the signed view (R189). -/
theorem sint16_add_one (v : BitVec 16) :
    (sint16 v = 32767 → sint16 (v + 1#16) = -32768) ∧ (sint16 v ≠ 32767 → sint16 (v + 1#16) = sint16 v + 1) := by
  have hv := v.isLt
  have hadd : (v + 1#16).toNat = (v.toNat + 1) % 65536 := BitVec.toNat_add v 1#16
  unfold sint16
  rw [hadd]
  constructor <;> split <;> split <;> omega

/-- One down in the signed view (R189). -/
theorem sint16_sub_one (v : BitVec 16) :
    (sint16 v = -32768 → sint16 (v - 1#16) = 32767) ∧ (sint16 v ≠ -32768 → sint16 (v - 1#16) = sint16 v - 1) := by
  have hv := v.isLt
  have hsub : (v - 1#16).toNat = (65535 + v.toNat) % 65536 := BitVec.toNat_sub v 1#16
  unfold sint16
  rw [hsub]
  constructor <;> split <;> split <;> omega

/-- Settles O38: one up and one down modulo 65536, read unsigned and signed. -/
theorem wraparoundBothReadings : Obligations.WraparoundBothReadings := by
  intro prm ch la lb c prev h hl t
  obtain ⟨hup, hdown, -⟩ := configuredTickCounts prm ch la lb c prev h hl
  refine ⟨fun hq => ?_, fun hq => ?_⟩
  · rw [show t.cnt = c.cnt + 1#16 from hup hq]
    exact ⟨fun hc => by rw [hc]; rfl, sint16_add_one c.cnt⟩
  · rw [show t.cnt = c.cnt - 1#16 from hdown hq]
    exact ⟨fun hc => by rw [hc]; rfl, sint16_sub_one c.cnt⟩

/-! ## A tick of a configured channel -/

/-- The registers of a configured channel are not among what a tick writes. -/
theorem Configured.tick {prm : Params} {ch : Ch} {c : Channel} (h : Configured prm ch c) (la lb : Level) :
    Configured prm ch (tickChannel prm ch la lb c) := by
  obtain ⟨v, fa, fb, na, nb, l, k, ht⟩ := tickChannel_eq prm ch la lb c
  rw [ht]
  exact { h with }

/-- The registers of a configured channel are not part of its filters. -/
theorem Configured.setFilter {prm : Params} {ch : Ch} {c : Channel} (h : Configured prm ch c) (p : Phase) (fout : Bit)
    (fcnt : Nat) : Configured prm ch (c.setFilter p fout fcnt) := by
  cases p
  · exact { h with }
  · exact { h with }

/-- Both filters of a configured channel are on (R230). -/
theorem Configured.filterOn {prm : Params} {ch : Ch} {c : Channel} (h : Configured prm ch c) (hF : prm.fvalInit ≠ 0#4)
    (p : Phase) : c.filterOn p := by
  cases p <;> simp [Channel.filterOn, Channel.filterEnable, Channel.filterValue, h.qdctrl, configuredQdctrl, h.filter, hF]

/-- Both filters of a configured channel have the same threshold. -/
theorem Configured.threshold_eq {prm : Params} {ch : Ch} {c : Channel} (h : Configured prm ch c) (p : Phase) :
    threshold prm c p = prm.filterScale * prm.fvalInit.toNat := by
  cases p <;> simp [threshold, Channel.filterValue, h.filter]

/-- The filters of a configured channel take the levels of its pins as samples (R105, R107). -/
theorem Configured.filterTick_eq {prm : Params} {ch : Ch} {c : Channel} (h : Configured prm ch c) (la lb : Level) :
    filterTick prm ch la lb c =
      filterPhase prm ch .b (bitOf 0#1 lb) (filterPhase prm ch .a (bitOf 0#1 la) c) := by
  simp [filterTick, decIn_of_configured h]

/-- No change of the pair is no transition (R185). -/
theorem qd_self (x : BitVec 2) : qd x x = .zero := by revert x; decide

/-- A tick of a configured channel whose filters leave the pair does what its filters do. -/
theorem Configured.tick_of_pair {prm : Params} {ch : Ch} {c : Channel} (h : Configured prm ch c)
    (hl : c.latch = some c.pair) {la lb : Level} (hp : (filterTick prm ch la lb c).pair = c.pair) :
    tickChannel prm ch la lb c = filterTick prm ch la lb c := by
  obtain ⟨k, fa, na, fb, nb, hf⟩ := Machine.filterTick_eq prm ch la lb c
  obtain ⟨ha, he, -⟩ := h.counts
  simp only [tickChannel]
  generalize filterTick prm ch la lb c = d at hf hp
  have hlatch : d.latch = some d.pair := by rw [hp, ← hl, hf]
  have hrelatch : d.relatch = d := by rw [Channel.relatch, ← hlatch]
  have hdelta : d.delta = .zero := by rw [Channel.delta, hlatch]; exact qd_self d.pair
  rw [hrelatch, hdelta, countTick_counts ch .zero (by rw [hf]; exact ha) (by rw [hf]; exact he)]
  rfl

/-! ## Updates of a filter -/

@[simp] theorem Channel.setFilter_setFilter (c : Channel) (p : Phase) (x y : Bit) (n m : Nat) :
    (c.setFilter p x n).setFilter p y m = c.setFilter p y m := by cases p <;> rfl

@[simp] theorem Channel.setFilter_latch (c : Channel) (p : Phase) (x : Bit) (n : Nat) :
    (c.setFilter p x n).latch = c.latch := by cases p <;> rfl

@[simp] theorem Channel.setFilter_cnt (c : Channel) (p : Phase) (x : Bit) (n : Nat) :
    (c.setFilter p x n).cnt = c.cnt := by cases p <;> rfl

/-- A count alone leaves the pair. -/
@[simp] theorem Channel.setFilter_pair (c : Channel) (p : Phase) (n : Nat) :
    (c.setFilter p (c.fout p) n).pair = c.pair := by cases p <;> rfl

/-- The record with both filter counts at 0. -/
def Channel.resetCounts (c : Channel) : Channel := { c with fcntA := 0, fcntB := 0 }

@[simp] theorem Channel.resetCounts_setFilter (c : Channel) (p : Phase) (n : Nat) :
    (c.setFilter p (c.fout p) n).resetCounts = c.resetCounts := by cases p <;> rfl

/-- Counts that are 0 are as they were. -/
theorem Channel.resetCounts_eq_self {c : Channel} (h : ∀ q, c.fcnt q = 0) : c.resetCounts = c := by
  have hself : (c.setFilter .a (c.fout .a) (c.fcnt .a)).setFilter .b (c.fout .b) (c.fcnt .b) = c := rfl
  rw [h .a, h .b] at hself
  exact hself

/-- The other output of one phase is one transition up or down (R185). -/
theorem qd_setFilter_not (c : Channel) (p : Phase) (n : Nat) :
    qd c.pair (c.setFilter p (~~~c.fout p) n).pair = .up ∨ qd c.pair (c.setFilter p (~~~c.fout p) n).pair = .down := by
  have key : ∀ x y u v : Bit, (qd ((x ^^^ u) ++ (y ^^^ v)) ((~~~x ^^^ u) ++ (y ^^^ v)) = .up ∨
      qd ((x ^^^ u) ++ (y ^^^ v)) ((~~~x ^^^ u) ++ (y ^^^ v)) = .down) ∧
      (qd ((x ^^^ u) ++ (y ^^^ v)) ((x ^^^ u) ++ (~~~y ^^^ v)) = .up ∨
      qd ((x ^^^ u) ++ (y ^^^ v)) ((x ^^^ u) ++ (~~~y ^^^ v)) = .down) := by decide
  obtain ⟨ha, hb⟩ := key c.foutA c.foutB c.qdctrl.phapol c.qdctrl.phbpol
  cases p
  · exact ha
  · exact hb

/-- A filter that counts nothing and sees its output leaves the record. -/
theorem filterPhase_rest (prm : Params) (ch : Ch) {p : Phase} {c : Channel} (h : c.fcnt p = 0) :
    filterPhase prm ch p (c.fout p) c = c := by
  rw [filterPhase_settled, ← h]
  cases p <;> rfl

/-! ## One phase of a configured channel at its other level -/

/-- The levels at which both filters are at rest. -/
def restLevels (c : Channel) : Level × Level := (levelOf c.foutA, levelOf c.foutB)

/-- The levels at rest, but for one phase, which is at its other level. -/
def pulseLevels (c : Channel) : Phase → Level × Level
  | .a => (levelOf (~~~c.foutA), levelOf c.foutB)
  | .b => (levelOf c.foutA, levelOf (~~~c.foutB))

/-- A count alone leaves the levels at rest. -/
theorem restLevels_setFilter (c : Channel) (p : Phase) (n : Nat) :
    restLevels (c.setFilter p (c.fout p) n) = restLevels c := by cases p <;> rfl

/-- A count alone leaves the levels of a pulse. -/
theorem pulseLevels_setFilter (c : Channel) (p : Phase) (n : Nat) :
    pulseLevels (c.setFilter p (c.fout p) n) p = pulseLevels c p := by cases p <;> rfl

/-- A tick on the levels at rest resets the filter counts and does nothing else. -/
theorem Configured.tick_restLevels {prm : Params} {ch : Ch} {c : Channel} (h : Configured prm ch c)
    (hl : c.latch = some c.pair) :
    tickChannel prm ch (restLevels c).1 (restLevels c).2 c = c.resetCounts := by
  have hf : filterTick prm ch (restLevels c).1 (restLevels c).2 c = c.resetCounts := by
    simp only [h.filterTick_eq, restLevels, bitOf_levelOf]
    rw [show c.foutA = c.fout .a from rfl, filterPhase_settled]
    exact filterPhase_settled prm ch .b (c.setFilter .a c.foutA 0)
  rw [h.tick_of_pair hl (by rw [hf]; rfl), hf]

/-- Where one phase is at its other level and the other phase at rest, the filter of the first alone does something. -/
theorem Configured.filterTick_pulseLevels {prm : Params} {ch : Ch} {c : Channel} (h : Configured prm ch c) {p : Phase}
    (hq : ∀ q, q ≠ p → c.fcnt q = 0) :
    filterTick prm ch (pulseLevels c p).1 (pulseLevels c p).2 c = filterPhase prm ch p (~~~c.fout p) c := by
  cases p
  · simp only [h.filterTick_eq, pulseLevels, bitOf_levelOf]
    obtain ⟨k, fout, fcnt, hf⟩ := filterPhase_eq prm ch .a (~~~c.foutA) c
    have hd : (filterPhase prm ch .a (~~~c.foutA) c).fcnt .b = 0 := by rw [hf]; exact hq .b (by decide)
    have hb : c.foutB = (filterPhase prm ch .a (~~~c.foutA) c).fout .b := by rw [hf]; rfl
    rw [hb]
    exact filterPhase_rest prm ch hd
  · simp only [h.filterTick_eq, pulseLevels, bitOf_levelOf]
    rw [show c.foutA = c.fout .a from rfl, filterPhase_rest prm ch (hq .a (by decide))]
    rfl

section Pulse

variable {prm : Params} {ch : Ch} {c : Channel} (h : Configured prm ch c) (hcnt : ∀ q, c.fcnt q = 0)
  (hl : c.latch = some c.pair) (hF : prm.fvalInit ≠ 0#4) (p : Phase)

include h hcnt hF

/-- The filters' part of one more tick at the other level, while `k` are counted. -/
theorem Configured.filterTick_pulse (k : Nat) :
    filterTick prm ch (pulseLevels c p).1 (pulseLevels c p).2 (c.setFilter p (c.fout p) k) =
      filterCandidate prm ch p (~~~c.fout p) (k + 1) (c.setFilter p (c.fout p) k) := by
  have hd := h.setFilter p (c.fout p) k
  have hne : ~~~c.fout p ≠ c.fout p := by generalize c.fout p = b; revert b; decide
  have ht := hd.filterTick_pulseLevels (p := p) fun q hq => by rw [Channel.setFilter_fcnt_other _ _ _ hq, hcnt q]
  rw [pulseLevels_setFilter, Channel.setFilter_fout_same] at ht
  rw [ht, filterPhase_candidate prm ch (hd.filterOn hF p) (by rwa [Channel.setFilter_fout_same]),
    Channel.setFilter_fcnt_same]

include hl

/-- Below the threshold the ticks of a pulse are counted, and that is all they do (R184, R190). -/
theorem Configured.runTicks_pulse {k : Nat} (hk : k < prm.filterScale * prm.fvalInit.toNat) :
    runTicks prm ch (List.replicate k (pulseLevels c p)) c = c.setFilter p (c.fout p) k := by
  induction k with
  | zero =>
    rw [List.replicate_zero, runTicks_nil, ← hcnt p]
    cases p <;> rfl
  | succ k ih =>
    have hd := h.setFilter p (c.fout p) k
    have hf := h.filterTick_pulse hcnt hF p k
    rw [filterCandidate_counted ch _ (by rwa [hd.threshold_eq]), Channel.setFilter_fout_same,
      Channel.setFilter_setFilter] at hf
    rw [List.replicate_succ', runTicks_append, ih (by omega), runTicks_cons, runTicks_nil,
      hd.tick_of_pair (by simpa using hl) (by rw [hf]; simp), hf]

/-- A pulse below the threshold and a return to rest leave the record (R190). -/
theorem Configured.runTicks_shortPulse {k : Nat} (hk : k < prm.filterScale * prm.fvalInit.toNat) :
    runTicks prm ch (List.replicate k (pulseLevels c p) ++ [restLevels c]) c = c := by
  have hrest := (h.setFilter p (c.fout p) k).tick_restLevels (by simpa using hl)
  rw [restLevels_setFilter, Channel.resetCounts_setFilter, Channel.resetCounts_eq_self hcnt] at hrest
  rw [runTicks_append, h.runTicks_pulse hcnt hl hF p hk, runTicks_cons, runTicks_nil, hrest]

end Pulse

/-- A threshold that some count is below is not 0, so the filter value is not 0. -/
theorem fvalInit_ne_zero {prm : Params} {k : Nat} (hk : k < prm.filterScale * prm.fvalInit.toNat) :
    prm.fvalInit ≠ 0#4 := by
  intro h
  simp [h] at hk

/-- Settles O39: the ticks of the pulse are counted, and the return to rest resets the count. -/
theorem shortPulsesAreRejected : Obligations.ShortPulsesAreRejected := by
  intro prm ch c k h ha hb hl hk
  have hcnt : ∀ q, c.fcnt q = 0 := fun q => by cases q; exacts [ha, hb]
  have hF := fvalInit_ne_zero hk
  exact ⟨h.runTicks_shortPulse hcnt hl hF .a hk, h.runTicks_shortPulse hcnt hl hF .b hk⟩

/-! ## A level that is held -/

/-- Ticks that leave a record, however many, leave it. -/
theorem runTicks_replicate_of_tick {prm : Params} {ch : Ch} {l : Level × Level} {c : Channel}
    (h : tickChannel prm ch l.1 l.2 c = c) (k : Nat) : runTicks prm ch (List.replicate k l) c = c := by
  induction k with
  | zero => rfl
  | succ k ih => rw [List.replicate_succ, runTicks_cons, h, ih]

/-- The record of a configured channel at rest after its `T`-th tick with phase `p` at its other level, with
`FILTER_SLACK = 0`: the output of `p` has changed and the counter has gone by one. -/
structure Accepted (prm : Params) (ch : Ch) (p : Phase) (c t : Channel) : Prop where
  configured : Configured prm ch t
  latch : t.latch = some t.pair
  fout : ∀ q, t.fout q = if q = p then ~~~c.fout q else c.fout q
  fcnt : ∀ q, t.fcnt q = 0
  counted : (qd c.pair t.pair = .up ∧ t.cnt = c.cnt + 1#16) ∨ (qd c.pair t.pair = .down ∧ t.cnt = c.cnt - 1#16)

/-- With `FILTER_SLACK = 0` a held change is accepted on its `T`-th tick (R184, R191). -/
theorem Configured.accepted {prm : Params} {ch : Ch} {c : Channel} (h : Configured prm ch c) (hcnt : ∀ q, c.fcnt q = 0)
    (hl : c.latch = some c.pair) (hF : prm.fvalInit ≠ 0#4) (p : Phase) (hslack : prm.filterSlack = 0)
    (hpos : 0 < prm.filterScale * prm.fvalInit.toNat) :
    Accepted prm ch p c
      (runTicks prm ch (List.replicate (prm.filterScale * prm.fvalInit.toNat) (pulseLevels c p)) c) := by
  obtain ⟨k, hk⟩ : ∃ k, prm.filterScale * prm.fvalInit.toNat = k + 1 := ⟨_, (Nat.sub_add_cancel hpos).symm⟩
  have hd := h.setFilter p (c.fout p) k
  have hf := h.filterTick_pulse hcnt hF p k
  rw [filterCandidate_accepted ch _ (by rw [hd.threshold_eq, hk, hslack, Nat.add_zero]), Channel.setFilter_setFilter] at hf
  rw [hk, List.replicate_succ', runTicks_append, h.runTicks_pulse hcnt hl hF p (by omega), runTicks_cons, runTicks_nil]
  have hfilter := tickChannel_filter prm ch (pulseLevels c p).1 (pulseLevels c p).2 (c.setFilter p (c.fout p) k)
  have hpair := tickChannel_pair prm ch (pulseLevels c p).1 (pulseLevels c p).2 (c.setFilter p (c.fout p) k)
  have hcount := @Configured.tick_cnt _ _ _ hd c.pair (by simpa using hl) (pulseLevels c p).1 (pulseLevels c p).2
  rw [hf] at hfilter hpair
  rw [Channel.setFilter_cnt] at hcount
  obtain ⟨hfoutA, hfoutB, hfcntA, hfcntB⟩ := hfilter
  refine ⟨hd.tick _ _, tickChannel_latch .., fun q => ?_, fun q => ?_, ?_⟩
  · cases q
    · refine hfoutA.trans ?_; cases p <;> rfl
    · refine hfoutB.trans ?_; cases p <;> rfl
  · cases q
    · refine hfcntA.trans ?_; cases p; exacts [rfl, hcnt .a]
    · refine hfcntB.trans ?_; cases p; exacts [hcnt .b, rfl]
  · rcases qd_setFilter_not c p 0 with hq | hq <;> rw [← hpair] at hq
    · exact .inl ⟨hq, hcount (by rw [hq]; rfl)⟩
    · refine .inr ⟨hq, ?_⟩
      rw [BitVec.sub_eq_add_neg]
      exact hcount (by rw [hq]; rfl)

/-- The other level of the phase is, after its acceptance, the level at rest. -/
theorem Accepted.restLevels_eq {prm : Params} {ch : Ch} {p : Phase} {c t : Channel} (h : Accepted prm ch p c t) :
    restLevels t = pulseLevels c p := by
  have ha : t.foutA = _ := h.fout .a
  have hb : t.foutB = _ := h.fout .b
  rw [restLevels, ha, hb]
  cases p <;> rfl

/-- However long the level is held after its acceptance, nothing changes (R191). -/
theorem Accepted.runTicks_held {prm : Params} {ch : Ch} {p : Phase} {c t : Channel} (h : Accepted prm ch p c t)
    (k : Nat) : runTicks prm ch (List.replicate k (pulseLevels c p)) t = t := by
  refine runTicks_replicate_of_tick ?_ k
  rw [← h.restLevels_eq, h.configured.tick_restLevels h.latch, Channel.resetCounts_eq_self h.fcnt]

/-- The threshold of a configured channel is not 0. -/
theorem initThreshold_pos {prm : Params} (hF : prm.fvalInit ≠ 0#4) (hscale : 0 < prm.filterScale) :
    0 < prm.filterScale * prm.fvalInit.toNat :=
  Nat.mul_pos hscale (Nat.pos_of_ne_zero fun h => hF (BitVec.eq_of_toNat_eq h))

/-- Settles O40: the change is counted up to `T − 1`, accepted on the `T`-th tick, and at rest from then on. -/
theorem heldLevelCountsAtThreshold : Obligations.HeldLevelCountsAtThreshold := by
  intro prm ch c p h ha hb hl hslack hF hscale thr levels held
  have hcnt : ∀ q, c.fcnt q = 0 := fun q => by cases q; exacts [ha, hb]
  have hlevels : levels = pulseLevels c p := by cases p <;> rfl
  have hpos : 0 < thr := initThreshold_pos hF hscale
  have hacc : Accepted prm ch p c (held thr) := by
    simpa only [held, hlevels] using h.accepted hcnt hl hF p hslack hpos
  refine ⟨fun k hk => ?_, fun k hk => ?_, hacc.counted⟩
  · have hheld : held k = c.setFilter p (c.fout p) k := by
      simpa only [held, hlevels] using h.runTicks_pulse hcnt hl hF p hk
    rw [hheld]
    cases p <;> exact ⟨rfl, rfl, rfl⟩
  · obtain ⟨j, rfl⟩ := Nat.exists_eq_add_of_le hk
    have hheld : held (thr + j) = held thr := by
      have hrun := hacc.runTicks_held j
      rw [← hlevels] at hrun
      simp only [held, List.replicate_add, runTicks_append]
      exact hrun
    have hfoutA : (held thr).foutA = _ := hacc.fout .a
    have hfoutB : (held thr).foutB = _ := hacc.fout .b
    rw [hheld, hfoutA, hfoutB]
    cases p <;> exact ⟨rfl, rfl, rfl⟩

/-! ## Counting along a path of pairs -/

/-- What a legal transition adds to the counter; 0 for an illegal one. -/
def gap (x y : BitVec 2) : BitVec 16 := (deltaValue (qd x y)).getD 0#16

/-- A change of one bit of the pair, or of none, is legal (R185). -/
theorem deltaValue_qd_eq_gap {a b a' b' : Bit} (h : a = a' ∨ b = b') :
    deltaValue (qd (a ++ b) (a' ++ b')) = some (gap (a ++ b) (a' ++ b')) := by
  revert a b a' b'
  decide

/-- The net count of a path that begins with a legal transition. -/
theorem netCount_cons_cons {x y : BitVec 2} {rest : List (BitVec 2)} {v w : BitVec 16}
    (hv : deltaValue (qd x y) = some v) (hw : netCount (y :: rest) = some w) :
    netCount (x :: y :: rest) = some (v + w) := by
  rw [netCount, hv, hw]

/-- No change of the pair adds nothing. -/
theorem gap_self (x : BitVec 2) : gap x x = 0#16 := by rw [gap, qd_self]; rfl

/-- The count on the way from the filtered bits `fa`, `fb` to the raw bits `ra`, `rb`: phase A's change comes first, or
phase B's. -/
def countBetween (aFirst : Bool) (fa fb ra rb : Bit) : BitVec 16 :=
  let mid := if aFirst then ra ++ fb else fa ++ rb
  gap (fa ++ fb) mid + gap mid (ra ++ rb)

/-- Nothing lies between bits that agree. -/
theorem countBetween_self (aFirst : Bool) (a b : Bit) : countBetween aFirst a b a b = 0#16 := by
  cases aFirst <;> simp [countBetween, gap_self]

/-- A change of one raw bit, of a phase that has none pending, comes last on the way. -/
theorem countBetween_raw : ∀ (aFirst : Bool) (fa fb ra rb ra' rb' : Bit), (ra = ra' ∨ rb = rb') →
    (ra ≠ ra' → fa = ra ∧ aFirst = false) → (rb ≠ rb' → fb = rb ∧ (fa ≠ ra → aFirst = true)) →
    countBetween aFirst fa fb ra' rb' = countBetween aFirst fa fb ra rb + gap (ra ++ rb) (ra' ++ rb') := by
  decide

/-- The filtered bits take the change that comes first on the way. -/
theorem countBetween_filtered : ∀ (aFirst aFirst' : Bool) (fa fb fa' fb' ra rb : Bit),
    (fa' ≠ fa → fa' = ra ∧ (fb ≠ rb → aFirst = true)) → (fb' ≠ fb → fb' = rb ∧ (fa ≠ ra → aFirst = false)) →
    (fa' = fa → fb' = fb → fa ≠ ra → fb ≠ rb → aFirst' = aFirst) →
    gap (fa ++ fb) (fa' ++ fb') + countBetween aFirst' fa' fb' ra rb = countBetween aFirst fa fb ra rb := by
  decide

/-! ## One phase that follows its levels -/

/-- What a filter that is on does at one tick with the sample `x` (R184): its output takes the sample, a new one only from
`thr` ticks on, or it counts a new one, to less than `thr + slack`. -/
def FilterStep (thr slack : Nat) (x fout : Bit) (fcnt : Nat) (fout' : Bit) (fcnt' : Nat) : Prop :=
  (fout' = x ∧ fcnt' = 0 ∧ (x ≠ fout → thr ≤ fcnt + 1)) ∨
  (fout' = fout ∧ fcnt' = fcnt + 1 ∧ x ≠ fout ∧ fcnt + 1 < thr + slack)

/-- A filter of a configured channel does a filter step. -/
theorem Configured.filterStep {prm : Params} {ch : Ch} {c : Channel} (h : Configured prm ch c) (hF : prm.fvalInit ≠ 0#4)
    (p : Phase) (x : Bit) :
    FilterStep (prm.filterScale * prm.fvalInit.toNat) prm.filterSlack x (c.fout p) (c.fcnt p)
      ((filterPhase prm ch p x c).fout p) ((filterPhase prm ch p x c).fcnt p) := by
  obtain ⟨k, ⟨hf, hthr⟩ | ⟨hf, hx, hlt⟩⟩ := filterPhase_cases prm ch p x c
  · rw [hf, Channel.setFilter_fout_same, Channel.setFilter_fcnt_same, ← h.threshold_eq p]
    exact .inl ⟨rfl, rfl, hthr (h.filterOn hF p)⟩
  · rw [hf, Channel.setFilter_fout_same, Channel.setFilter_fcnt_same, ← h.threshold_eq p]
    exact .inr ⟨rfl, rfl, hx, hlt⟩

/-- A tick of a configured channel does a filter step for each phase. -/
theorem Configured.tick_filterStep {prm : Params} {ch : Ch} {c : Channel} (h : Configured prm ch c)
    (hF : prm.fvalInit ≠ 0#4) (la lb : Level) :
    FilterStep (prm.filterScale * prm.fvalInit.toNat) prm.filterSlack (bitOf 0#1 la) c.foutA c.fcntA
      (tickChannel prm ch la lb c).foutA (tickChannel prm ch la lb c).fcntA ∧
    FilterStep (prm.filterScale * prm.fvalInit.toNat) prm.filterSlack (bitOf 0#1 lb) c.foutB c.fcntB
      (tickChannel prm ch la lb c).foutB (tickChannel prm ch la lb c).fcntB := by
  obtain ⟨hfoutA, hfoutB, hfcntA, hfcntB⟩ := tickChannel_filter prm ch la lb c
  rw [hfoutA, hfoutB, hfcntA, hfcntB, h.filterTick_eq]
  have hstepA := h.filterStep hF .a (bitOf 0#1 la)
  obtain ⟨k, fa, na, hfa⟩ := filterPhase_eq prm ch .a (bitOf 0#1 la) c
  rw [hfa] at hstepA ⊢
  have hd : Configured prm ch ((c.spend k).setFilter .a fa na) :=
    Configured.setFilter (c := c.spend k) { h with } .a fa na
  have hstepB := hd.filterStep hF .b (bitOf 0#1 lb)
  obtain ⟨k', fb, nb, hfb⟩ := filterPhase_eq prm ch .b (bitOf 0#1 lb) ((c.spend k).setFilter .a fa na)
  rw [hfb] at hstepB ⊢
  exact ⟨hstepA, hstepB⟩

/-- An output that changes takes the sample, which has been new for `thr` ticks. -/
theorem FilterStep.of_ne {thr slack fcnt fcnt' : Nat} {x fout fout' : Bit}
    (h : FilterStep thr slack x fout fcnt fout' fcnt') (hne : fout' ≠ fout) : fout' = x ∧ thr ≤ fcnt + 1 := by
  rcases h with ⟨hx, -, hthr⟩ | ⟨heq, -⟩
  · exact ⟨hx, hthr (hx ▸ hne)⟩
  · exact absurd heq hne

/-- A new sample that the output does not take is counted. -/
theorem FilterStep.of_eq {thr slack fcnt fcnt' : Nat} {x fout fout' : Bit}
    (h : FilterStep thr slack x fout fcnt fout' fcnt') (heq : fout' = fout) (hne : fout ≠ x) :
    fcnt' = fcnt + 1 := by
  rcases h with ⟨hx, -⟩ | ⟨-, hcount, -⟩
  · exact absurd (heq.symm.trans hx) hne
  · exact hcount

/-- After tick `k`, at the level `y` and with the levels `ls` to come, the filter of a phase has settled on `y`, or it
counts `y` as a candidate, which the levels to come hold until it is `n` ticks old. -/
structure Tracks (n k : Nat) (y : Level) (ls : List Level) (fout : Bit) (fcnt : Nat) : Prop where
  held : heldFor n (y :: ls) = true
  settled : fout = bitOf 0#1 y → fcnt = 0
  pending : fout ≠ bitOf 0#1 y → 0 < fcnt ∧ fcnt < n ∧ fcnt ≤ k ∧ ∀ j, j + fcnt < n → ls[j]? = some y

/-- The tick `i` is one of a change of the phase that its filter has not taken by tick `k`. -/
def OpenChange (k : Nat) (y : Level) (ls : List Level) (fcnt i : Nat) : Prop :=
  (0 < fcnt ∧ i + fcnt = k + 1) ∨ i ∈ changesFrom k (y :: ls)

/-- A level that changes is an open change. -/
theorem openChange_of_ne {y m : Level} (h : y ≠ m) (k : Nat) (ls : List Level) (fcnt : Nat) :
    OpenChange k y (m :: ls) fcnt (k + 1) := by
  rw [OpenChange, changesFrom_cons_cons, if_neg h]
  exact .inr (List.mem_cons_self ..)

section Tracks

variable {n k fcnt : Nat} {y m : Level} {ls : List Level} {fout : Bit}

/-- A phase whose raw bit changes had settled. -/
theorem Tracks.settled_of_ne (h : Tracks n k y (m :: ls) fout fcnt) (hym : y ≠ m) :
    fout = bitOf 0#1 y ∧ fcnt = 0 := by
  by_cases hy : fout = bitOf 0#1 y
  · exact ⟨hy, h.settled hy⟩
  · obtain ⟨-, hlt, -, hhold⟩ := h.pending hy
    exact absurd (Option.some.inj (hhold 0 (by omega))).symm hym

/-- The sample of a new level belongs to an open change, and the levels from it on hold it until it is `n` ticks old. -/
theorem Tracks.candidate (hn : 0 < n) (h : Tracks n k y (m :: ls) fout fcnt) (hm : fout ≠ bitOf 0#1 m) :
    fcnt < n ∧ fcnt ≤ k ∧ (∀ j, j + fcnt < n → (m :: ls)[j]? = some m) ∧
      OpenChange k y (m :: ls) fcnt (k + 1 - fcnt) := by
  by_cases hym : y = m
  · subst hym
    obtain ⟨hpos, hlt, hk, hhold⟩ := h.pending hm
    exact ⟨hlt, hk, hhold, .inl ⟨hpos, by omega⟩⟩
  · obtain ⟨-, rfl⟩ := h.settled_of_ne hym
    exact ⟨hn, Nat.zero_le k, ((heldFor_cons_cons n y m ls).1 h.held).2 hym, openChange_of_ne hym k ls 0⟩

variable {thr slack : Nat} {fout' : Bit} {fcnt' : Nat}

/-- A filter step goes on tracking the levels. -/
theorem Tracks.step (hthr : 0 < thr) (h : Tracks (thr + slack) k y (m :: ls) fout fcnt)
    (hs : FilterStep thr slack (bitOf 0#1 m) fout fcnt fout' fcnt') :
    Tracks (thr + slack) (k + 1) m ls fout' fcnt' := by
  have hheld := ((heldFor_cons_cons _ y m ls).1 h.held).1
  rcases hs with ⟨rfl, rfl, -⟩ | ⟨rfl, rfl, hm, hlt⟩
  · exact ⟨hheld, fun _ => rfl, fun hne => absurd rfl hne⟩
  · obtain ⟨-, hk, hhold, -⟩ := h.candidate (by omega) hm.symm
    exact ⟨hheld, fun heq => absurd heq.symm hm,
      fun _ => ⟨by omega, hlt, by omega, fun j hj => hhold (j + 1) (by omega)⟩⟩

/-- A filter step opens no change: the one it begins to count was to come. -/
theorem Tracks.openChange_of_step (hthr : 0 < thr) (h : Tracks (thr + slack) k y (m :: ls) fout fcnt)
    (hs : FilterStep thr slack (bitOf 0#1 m) fout fcnt fout' fcnt') {i : Nat} (hi : OpenChange (k + 1) m ls fcnt' i) :
    OpenChange k y (m :: ls) fcnt i := by
  rcases hi with ⟨hpos, hi⟩ | hi
  · rcases hs with ⟨-, rfl, -⟩ | ⟨-, rfl, hm, -⟩
    · exact absurd hpos (Nat.lt_irrefl 0)
    · obtain ⟨-, -, -, hopen⟩ := h.candidate (by omega) hm.symm
      rwa [show i = k + 1 - fcnt by omega]
  · rw [OpenChange, changesFrom_cons_cons]
    exact .inr (List.mem_append_right _ hi)

/-- With no level to come the filter has settled. -/
theorem Tracks.settled_of_nil (h : Tracks n k y [] fout fcnt) : fout = bitOf 0#1 y := by
  by_contra hy
  obtain ⟨-, hlt, -, hhold⟩ := h.pending hy
  exact absurd (hhold 0 (by omega)) (by simp)

end Tracks

/-! ## A channel that follows its levels -/

/-- A configured channel after tick `k`, at the levels `y` and with the levels `ls` to come: both filters track their
levels, and no open change of phase A lies within FILTER_SLACK ticks of one of phase B. -/
structure Following (prm : Params) (ch : Ch) (k : Nat) (y : Level × Level) (ls : List (Level × Level)) (c : Channel) :
    Prop where
  configured : Configured prm ch c
  latch : c.latch = some c.pair
  phaseA : Tracks (prm.filterScale * prm.fvalInit.toNat + prm.filterSlack) k y.1 (ls.map Prod.fst) c.foutA c.fcntA
  phaseB : Tracks (prm.filterScale * prm.fvalInit.toNat + prm.filterSlack) k y.2 (ls.map Prod.snd) c.foutB c.fcntB
  apart : ∀ i j, OpenChange k y.1 (ls.map Prod.fst) c.fcntA i → OpenChange k y.2 (ls.map Prod.snd) c.fcntB j →
    i + prm.filterSlack < j ∨ j + prm.filterSlack < i

/-- The count of the changes that the filters of a channel at the levels `y` have not taken: the older change comes
first. -/
def pendingCount (prm : Params) (c : Channel) (y : Level × Level) : BitVec 16 :=
  countBetween (decide (c.fcntB < c.fcntA)) (c.foutA ^^^ prm.polAInit) (c.foutB ^^^ prm.polBInit)
    (bitOf 0#1 y.1 ^^^ prm.polAInit) (bitOf 0#1 y.2 ^^^ prm.polBInit)

section Following

variable {prm : Params} {ch : Ch} {k : Nat} {y m : Level × Level} {ls : List (Level × Level)} {c : Channel}

/-- A settled channel with a well-formed environment to come follows it, with no count pending. -/
theorem following_of_settled {script : List Move} (hc : Configured prm ch c) (hs : Settled c y)
    (hw : wellFormedEnv prm ch y script = true) : Following prm ch 0 y (tickLevels ch script) c := by
  simp only [wellFormedEnv, Bool.and_eq_true, List.map_cons] at hw
  obtain ⟨⟨hheldA, hheldB⟩, hfar⟩ := hw
  refine ⟨hc, hs.latch, ⟨hheldA, fun _ => hs.fcntA, fun h => absurd hs.foutA h⟩,
    ⟨hheldB, fun _ => hs.fcntB, fun h => absurd hs.foutB h⟩, fun i j hi hj => ?_⟩
  rw [hs.fcntA] at hi
  rw [hs.fcntB] at hj
  have hi := hi.resolve_left fun h => Nat.lt_irrefl 0 h.1
  have hj := hj.resolve_left fun h => Nat.lt_irrefl 0 h.1
  simp only [farApart, List.all_eq_true, Bool.or_eq_true, decide_eq_true_eq] at hfar
  exact hfar i hi j hj

/-- Nothing is pending where the outputs are at their levels. -/
theorem pendingCount_of_settled (ha : c.foutA = bitOf 0#1 y.1) (hb : c.foutB = bitOf 0#1 y.2) :
    pendingCount prm c y = 0#16 := by
  rw [pendingCount, ha, hb, countBetween_self]

/-- The raw levels of the two phases do not change at one tick. -/
theorem Following.oneRawChange (h : Following prm ch k y (m :: ls) c) : y.1 = m.1 ∨ y.2 = m.2 := by
  by_contra hne
  obtain ⟨ha, hb⟩ := not_or.1 hne
  rcases h.apart (k + 1) (k + 1) (openChange_of_ne ha ..) (openChange_of_ne hb ..) with hlt | hlt <;> omega

/-- A change of one raw level, or of none, is legal. -/
theorem Following.rawChange_legal (h : Following prm ch k y (m :: ls) c) :
    deltaValue (qd (envPair prm y) (envPair prm m)) = some (gap (envPair prm y) (envPair prm m)) :=
  deltaValue_qd_eq_gap (h.oneRawChange.imp (fun e => by rw [e]) (fun e => by rw [e]))

/-- The raw levels of a tick add their transition to the pending count. -/
theorem Following.pendingCount_raw (h : Following prm ch k y (m :: ls) c) :
    pendingCount prm c m = pendingCount prm c y + gap (envPair prm y) (envPair prm m) := by
  apply countBetween_raw
  · exact h.oneRawChange.imp (fun e => by rw [e]) (fun e => by rw [e])
  · intro hne
    obtain ⟨hfout, hfcnt⟩ := h.phaseA.settled_of_ne fun e => hne (by rw [e])
    exact ⟨by rw [hfout], by rw [hfcnt]; simp⟩
  · intro hne
    obtain ⟨hfout, hfcnt⟩ := h.phaseB.settled_of_ne fun e => hne (by rw [e])
    refine ⟨by rw [hfout], fun hA => ?_⟩
    obtain ⟨hpos, -⟩ := h.phaseA.pending fun e => hA (by rw [e])
    simpa [hfcnt] using hpos

variable (hthr : 0 < prm.filterScale * prm.fvalInit.toNat)
include hthr

/-- Where both phases have a candidate, one is older by more than FILTER_SLACK ticks, and both are younger than the
acceptance threshold. -/
theorem Following.candidates_apart (h : Following prm ch k y (m :: ls) c) (ha : c.foutA ≠ bitOf 0#1 m.1)
    (hb : c.foutB ≠ bitOf 0#1 m.2) :
    (c.fcntA + prm.filterSlack < c.fcntB ∨ c.fcntB + prm.filterSlack < c.fcntA) ∧
      c.fcntA < prm.filterScale * prm.fvalInit.toNat + prm.filterSlack ∧
      c.fcntB < prm.filterScale * prm.fvalInit.toNat + prm.filterSlack := by
  obtain ⟨hltA, hkA, -, hopenA⟩ := h.phaseA.candidate (by omega) ha
  obtain ⟨hltB, hkB, -, hopenB⟩ := h.phaseB.candidate (by omega) hb
  refine ⟨?_, hltA, hltB⟩
  rcases h.apart _ _ hopenA hopenB with hlt | hlt <;> omega

variable (hF : prm.fvalInit ≠ 0#4)
include hF

/-- A tick goes on following the levels. -/
theorem Following.tick (h : Following prm ch k y (m :: ls) c) :
    Following prm ch (k + 1) m ls (tickChannel prm ch m.1 m.2 c) := by
  obtain ⟨hstepA, hstepB⟩ := h.configured.tick_filterStep hF m.1 m.2
  exact ⟨h.configured.tick m.1 m.2, tickChannel_latch .., h.phaseA.step hthr hstepA, h.phaseB.step hthr hstepB,
    fun i j hi hj => h.apart i j (h.phaseA.openChange_of_step hthr hstepA hi) (h.phaseB.openChange_of_step hthr hstepB hj)⟩

/-- Phase A's output takes its level at a tick only where a candidate of phase B is younger. -/
theorem Following.acceptedA (h : Following prm ch k y (m :: ls) c)
    (hne : (tickChannel prm ch m.1 m.2 c).foutA ≠ c.foutA) :
    (tickChannel prm ch m.1 m.2 c).foutA = bitOf 0#1 m.1 ∧ (c.foutB ≠ bitOf 0#1 m.2 → c.fcntB < c.fcntA) := by
  obtain ⟨htake, hold⟩ := (h.configured.tick_filterStep hF m.1 m.2).1.of_ne hne
  refine ⟨htake, fun hb => ?_⟩
  obtain ⟨hapart, -, hltB⟩ := h.candidates_apart hthr (fun e => hne (htake.trans e.symm)) hb
  omega

/-- Phase B's output takes its level at a tick only where a candidate of phase A is younger. -/
theorem Following.acceptedB (h : Following prm ch k y (m :: ls) c)
    (hne : (tickChannel prm ch m.1 m.2 c).foutB ≠ c.foutB) :
    (tickChannel prm ch m.1 m.2 c).foutB = bitOf 0#1 m.2 ∧ (c.foutA ≠ bitOf 0#1 m.1 → c.fcntA < c.fcntB) := by
  obtain ⟨htake, hold⟩ := (h.configured.tick_filterStep hF m.1 m.2).2.of_ne hne
  refine ⟨htake, fun ha => ?_⟩
  obtain ⟨hapart, hltA, -⟩ := h.candidates_apart hthr ha (fun e => hne (htake.trans e.symm))
  omega

/-- The outputs of the two phases do not change at one tick. -/
theorem Following.oneFilteredChange (h : Following prm ch k y (m :: ls) c) :
    c.foutA = (tickChannel prm ch m.1 m.2 c).foutA ∨ c.foutB = (tickChannel prm ch m.1 m.2 c).foutB := by
  by_contra hne
  obtain ⟨ha, hb⟩ := not_or.1 hne
  obtain ⟨htakeA, hA⟩ := h.acceptedA hthr hF (Ne.symm ha)
  obtain ⟨htakeB, hB⟩ := h.acceptedB hthr hF (Ne.symm hb)
  have hlt := hA fun e => hb (e.trans htakeB.symm)
  have hgt := hB fun e => ha (e.trans htakeA.symm)
  omega

/-- The counter of a channel that follows its levels goes on by the transition of the outputs. -/
theorem Following.tick_cnt (h : Following prm ch k y (m :: ls) c) :
    (tickChannel prm ch m.1 m.2 c).cnt = c.cnt + gap c.pair (tickChannel prm ch m.1 m.2 c).pair := by
  apply h.configured.tick_cnt h.latch
  rw [pair_of_configured h.configured, pair_of_configured (h.configured.tick m.1 m.2)]
  exact deltaValue_qd_eq_gap ((h.oneFilteredChange hthr hF).imp (fun e => by rw [← e]) (fun e => by rw [← e]))

/-- The transition of the outputs is taken from the pending count. -/
theorem Following.pendingCount_filtered (h : Following prm ch k y (m :: ls) c) :
    gap c.pair (tickChannel prm ch m.1 m.2 c).pair + pendingCount prm (tickChannel prm ch m.1 m.2 c) m =
      pendingCount prm c m := by
  obtain ⟨hstepA, hstepB⟩ := h.configured.tick_filterStep hF m.1 m.2
  rw [pair_of_configured h.configured, pair_of_configured (h.configured.tick m.1 m.2)]
  apply countBetween_filtered <;> simp only [ne_eq, BitVec.xor_left_inj, decide_eq_true_eq, decide_eq_false_iff_not,
    decide_eq_decide]
  · exact h.acceptedA hthr hF
  · intro hne
    obtain ⟨htake, hfirst⟩ := h.acceptedB hthr hF hne
    exact ⟨htake, fun ha => (hfirst ha).asymm⟩
  · intro heqA heqB ha hb
    rw [hstepA.of_eq heqA ha, hstepB.of_eq heqB hb]
    exact Nat.add_lt_add_iff_right

/-- Counter and pending count together go on by the transition of the raw levels. -/
theorem Following.tick_cnt_add_pendingCount (h : Following prm ch k y (m :: ls) c) :
    (tickChannel prm ch m.1 m.2 c).cnt + pendingCount prm (tickChannel prm ch m.1 m.2 c) m =
      c.cnt + pendingCount prm c y + gap (envPair prm y) (envPair prm m) := by
  rw [h.tick_cnt hthr hF, BitVec.add_assoc, h.pendingCount_filtered hthr hF, h.pendingCount_raw, BitVec.add_assoc]

/-- Over the levels to come the counter goes on by what is pending and by the net count of the raw pairs, and the filters
settle. -/
theorem Following.runTicks_count (h : Following prm ch k y ls c) :
    (∃ v, netCount ((y :: ls).map (envPair prm)) = some v ∧
      (runTicks prm ch ls c).cnt = c.cnt + pendingCount prm c y + v) ∧
    Settled (runTicks prm ch ls c) (ls.getLast?.getD y) := by
  induction ls generalizing k y c with
  | nil =>
    have ha := h.phaseA.settled_of_nil
    have hb := h.phaseB.settled_of_nil
    refine ⟨⟨0#16, rfl, ?_⟩, ha, hb, h.phaseA.settled ha, h.phaseB.settled hb, h.latch⟩
    rw [pendingCount_of_settled ha hb, BitVec.add_zero, BitVec.add_zero, runTicks_nil]
  | cons m ls ih =>
    obtain ⟨⟨v, hnet, hcnt⟩, hsettled⟩ := ih (h.tick hthr hF)
    rw [runTicks_cons, List.getLast?_cons, Option.getD_some]
    refine ⟨⟨gap (envPair prm y) (envPair prm m) + v, netCount_cons_cons h.rawChange_legal hnet, ?_⟩, hsettled⟩
    rw [hcnt, h.tick_cnt_add_pendingCount hthr hF, BitVec.add_assoc]

end Following

/-- Settles O60: a settled channel follows the levels of a well-formed environment, with nothing pending at its start
nor at its end. -/
theorem wellFormedEnvIsCountedExactly : Obligations.WellFormedEnvIsCountedExactly := by
  intro prm ch c rest script hc hs hF hscale hw ls t
  have hthr := initThreshold_pos hF hscale
  obtain ⟨⟨v, hnet, hcnt⟩, hsettled⟩ := (following_of_settled hc hs hw).runTicks_count hthr hF
  rw [pendingCount_of_settled hs.foutA hs.foutB, BitVec.add_zero] at hcnt
  exact ⟨⟨v, hnet, hcnt⟩, hsettled⟩

end Sys2Proof.Machine

/-! PROOFS. The statements on the counter access. -/

namespace Sys2Proof.Machine

/-! ## R.CNT and W.CNT -/

/-- Settles O27: the read returns the counter zero-extended, and takes no free value. -/
theorem counterRead : Obligations.CounterRead := by
  intro s ch
  refine ⟨readWordOf_readInstr .cnt ch, ?_⟩
  rw [exec, execRCnt, finishRead_eq_afterRead_zero, zext16_eq_append]

/-- A write of the counter, in each mode, replaces the counter and nothing else of its channel (R212). -/
theorem cntWrite_eq_afterWrite (m : CntWriteMode) (ch : Ch) (d : Word) (s : State) :
    cntWrite m ch d s = afterWrite s ch .cnt d { s.chan ch with cnt := cntLoad m d (s.chan ch) } [] [] :=
  finishWrite_setChan_eq_afterWrite ..

/-- Settles O28: the write loads what its mode gives, in every lock state, and W.CNT has the mode `Direct`. -/
theorem counterWrite : Obligations.CounterWrite := by
  intro s ch d
  refine ⟨writeWordOf_writeInstr .cnt ch d, ?_, ?_, ?_⟩
  · exact cntWrite_eq_afterWrite .direct ch d s
  · exact cntWrite_eq_afterWrite .loadCntin ch d s
  · exact congrArg Host.Outcome.next (cntWrite_eq_afterWrite .direct ch d s)

/-! ## READ and RESET -/

/-- READ returns the counter zero-extended (R215). -/
theorem execNext_readOp_results (ch : Ch) (s : State) :
    (execNext (readOp ch) s).results = s.results ++ [zext16 (s.chan ch).cnt] := rfl

/-- READ leaves every instance as it was (R211). -/
theorem execNext_readOp_chan (ch : Ch) (s : State) (x : Ch) : (execNext (readOp ch) s).chan x = s.chan x :=
  finishRead_chan ..

/-- Settles O30: each read returns the counter it finds, and the first one leaves it as it was. -/
theorem repeatedReadsAgree : Obligations.RepeatedReadsAgree := by
  intro s ch acts s1 h
  refine ⟨zext16 (s.chan ch).cnt, execNext_readOp_results ch s, ?_⟩
  rw [execNext_readOp_results, h, execNext_readOp_chan]

/-- A 16-bit value is the low half of its zero extension (R83). -/
theorem low16_zext16 (v : BitVec 16) : low16 (zext16 v) = v := by
  rw [low16, field, zext16, BitVec.extractLsb'_setWidth_of_le (by decide)]
  exact BitVec.extractLsb'_eq_self

/-- The signed view of the spec is that of the library (R8). -/
theorem sint16_eq_toInt (v : BitVec 16) : sint16 v = v.toInt := by
  rw [sint16, BitVec.toInt_eq_toNat_cond]
  exact if_congr (by omega) rfl rfl

/-- A signed 16-bit value is read back from its 16 bits (R8). -/
theorem sint16_uint16 {v : Int} (hlo : -32768 ≤ v) (hhi : v ≤ 32767) : sint16 (uint16 v) = v := by
  rw [sint16_eq_toInt, uint16]
  exact BitVec.toInt_ofInt_eq_self (by decide) hlo (by omega)

/-- RESET makes the counter the 16 bits of its value (R216). -/
theorem execNext_resetOp_cnt (ch : Ch) (v : Int) (s : State) :
    ((execNext (resetOp ch v) s).chan ch).cnt = uint16 v := by
  rw [← low16_zext16 (uint16 v)]
  exact congrArg Channel.cnt (execNext_writeInstr_chan .cnt ch _ s)

/-- RESET returns nothing to the host (R216). -/
theorem execNext_resetOp_results (ch : Ch) (v : Int) (s : State) : (execNext (resetOp ch v) s).results = s.results :=
  (finishWrite_results ..).trans (State.setChan_results ..)

/-- Settles O29: READ returns the bits that RESET stored, and they read back as `v`, which is in the signed range. -/
theorem resetThenReadGivesValue : Obligations.ResetThenReadGivesValue := by
  intro s ch v hlo hhi
  refine ⟨zext16 (uint16 v), ?_, ?_⟩
  · rw [execNext_readOp_results, execNext_resetOp_results, execNext_resetOp_cnt]
  · rw [readValue, low16_zext16, sint16_uint16 hlo hhi]

end Sys2Proof.Machine

/-! PROOFS. The statements on the initialization. -/

namespace Sys2Proof.Machine

/-! ## The acts of one channel -/

/-- Operations of a channel, one after the other, on its record. -/
def opsChan (ops : List Instr) (c : Channel) : Channel := ops.foldl (fun c i => opChan i c) c

@[simp] theorem opsChan_nil (c : Channel) : opsChan [] c = c := rfl
@[simp] theorem opsChan_cons (i : Instr) (ops : List Instr) (c : Channel) :
    opsChan (i :: ops) c = opsChan ops (opChan i c) := rfl
theorem opsChan_append (as bs : List Instr) (c : Channel) : opsChan (as ++ bs) c = opsChan bs (opsChan as c) :=
  List.foldl_append

theorem opsOn_cons_of_op {ch : Ch} {i : Instr} (h : i.channel = ch) (acts : List Act) :
    opsOn ch (.op i :: acts) = i :: opsOn ch acts := by simp [opsOn, h]

theorem opsOn_cons_of_otherOp {ch : Ch} {i : Instr} (h : i.channel ≠ ch) (acts : List Act) :
    opsOn ch (.op i :: acts) = opsOn ch acts := by simp [opsOn, h]

@[simp] theorem opsOn_cons_tick (ch y : Ch) (la lb : Level) (acts : List Act) :
    opsOn ch (.tick y la lb :: acts) = opsOn ch acts := rfl

/-- An act is an operation of the channel, or no operation of it. -/
theorem opsOn_cons_cases (ch : Ch) (x : Act) :
    (∃ i, x = .op i ∧ i.channel = ch) ∨ ∀ acts, opsOn ch (x :: acts) = opsOn ch acts := by
  cases x with
  | op i =>
    by_cases h : i.channel = ch
    · exact .inl ⟨i, rfl, h⟩
    · exact .inr (opsOn_cons_of_otherOp h)
  | tick y la lb => exact .inr (opsOn_cons_tick ch y la lb)

/-- An operation of the channel acts on its record as `opChan` says. -/
theorem actChan_op {ch : Ch} {i : Instr} (h : i.channel = ch) (c : Channel) : actChan ch (.op i) c = opChan i c :=
  if_pos h

/-! ## The registers of a record -/

/-- Two records have the same registers: they differ at most in the counter, the hidden state and the count of free
values, which are all that a tick changes (R187). -/
def SameRegisters (c d : Channel) : Prop :=
  ∃ v fa fb na nb l k,
    d = { c with cnt := v, foutA := fa, foutB := fb, fcntA := na, fcntB := nb, latch := l, draws := k }

theorem SameRegisters.refl (c : Channel) : SameRegisters c c := ⟨_, _, _, _, _, _, _, rfl⟩

theorem SameRegisters.trans {c d e : Channel} (h : SameRegisters c d) (h' : SameRegisters d e) : SameRegisters c e := by
  obtain ⟨_, _, _, _, _, _, _, rfl⟩ := h
  obtain ⟨_, _, _, _, _, _, _, rfl⟩ := h'
  exact ⟨_, _, _, _, _, _, _, rfl⟩

/-- The lock state is one of the registers. -/
theorem SameRegisters.opened {c d : Channel} (h : SameRegisters c d) (ho : Opened c) : Opened d := by
  obtain ⟨_, _, _, _, _, _, _, rfl⟩ := h
  exact ho

/-- The configured state is one of the registers alone (R233). -/
theorem SameRegisters.configured {prm : Params} {ch : Ch} {c d : Channel} (h : SameRegisters c d)
    (hc : Configured prm ch c) : Configured prm ch d := by
  obtain ⟨_, _, _, _, _, _, _, rfl⟩ := h
  exact { hc with }

/-- An act that is no operation of the channel changes none of its registers. -/
theorem sameRegisters_actChan {ch : Ch} {x : Act} (h : ∀ acts, opsOn ch (x :: acts) = opsOn ch acts) (c : Channel) :
    SameRegisters c (actChan ch x c) := by
  cases x with
  | op i =>
    have hi : i.channel ≠ ch := fun hi => List.cons_ne_nil _ _ ((opsOn_cons_of_op hi []).symm.trans (h []))
    rw [actChan, if_neg hi]
    exact .refl c
  | tick y la lb =>
    rw [actChan]
    split
    · exact tickChannel_eq Config.params ch la lb c
    · exact .refl c

/-! ## Writes that nothing stops -/

/-- A write that, on this record, is neither refused nor blocked and takes no free value: of the gated ones where the
channel is Open, of W.MODE the unlock write, which stores or unlocks (R102, R104, R120, R125, R140). -/
def QuietWrite (i : Instr) (c : Channel) : Prop :=
  match i with
  | .wPcrA _ d | .wPcrB _ d => pinFeature d = false
  | .wMode _ d => field d 2 1 = 1#1 ∧ field d 7 1 = 0#1
  | .wSc _ d | .wC0sc _ d | .wC1sc _ d => Opened c ∧ enableBit6 d = false
  | .wMod _ _ | .wCntin _ _ | .wC0v _ _ | .wC1v _ _ | .wFilter _ _ | .wQdctrl _ _ => Opened c
  | .wFms _ _ | .wCnt _ _ => True
  | _ => False

/-- Quiet writes one after the other, the first of them on this record. -/
def QuietRun : List Instr → Channel → Prop
  | [], _ => True
  | i :: ops, c => QuietWrite i c ∧ QuietRun ops (opChan i c)

theorem quietRun_append (as bs : List Instr) (c : Channel) :
    QuietRun (as ++ bs) c ↔ QuietRun as c ∧ QuietRun bs (opsChan as c) := by
  induction as generalizing c with
  | nil => simp [QuietRun]
  | cons i as ih => simp [QuietRun, ih, and_assoc]

/-- A write is quiet or not by the registers alone. -/
theorem SameRegisters.quietWrite {c d : Channel} (h : SameRegisters c d) {i : Instr} (hq : QuietWrite i c) :
    QuietWrite i d := by
  cases i with
  | wPcrA | wPcrB | wMode | wFms | wCnt => exact hq
  | wSc | wC0sc | wC1sc => exact hq.imp_left h.opened
  | wMod | wCntin | wC0v | wC1v | wFilter | wQdctrl => exact h.opened hq
  | rPcrA | rPcrB | rMode | rFms | rSc | rMod | rCntin | rC0sc | rC0v | rC1sc | rC1v | rFilter | rQdctrl | rCnt =>
    exact hq.elim

/-- An admitted gated write stores into the registers alike, whatever the rest of the record is. -/
theorem SameRegisters.gatedChan {c d : Channel} (h : SameRegisters c d) (ho : Opened c) (ch : Ch) (reg : Reg)
    {store : Channel → Channel} (hs : SameRegisters (store c) (store d)) :
    SameRegisters (gatedChan ch reg store c) (gatedChan ch reg store d) := by
  rwa [gatedChan_opened ch reg store ho, gatedChan_opened ch reg store (h.opened ho)]

/-- A quiet write makes the new registers from the registers alone. -/
theorem SameRegisters.opChan {c d : Channel} (h : SameRegisters c d) {i : Instr} (hq : QuietWrite i c) :
    SameRegisters (opChan i c) (opChan i d) := by
  have hd := h
  obtain ⟨_, _, _, _, _, _, _, rfl⟩ := hd
  cases i with
  | wPcrA | wPcrB | wCnt => exact ⟨_, _, _, _, _, _, _, rfl⟩
  | wSc | wC0sc | wC1sc => exact h.gatedChan hq.1 _ _ ⟨_, _, _, _, _, _, _, rfl⟩
  | wMod | wCntin | wC0v | wC1v | wFilter | wQdctrl => exact h.gatedChan hq _ _ ⟨_, _, _, _, _, _, _, rfl⟩
  | wMode =>
    rw [Machine.opChan, Machine.opChan, modeChan, modeChan, if_pos hq.1, if_pos hq.1]
    split <;> exact ⟨_, _, _, _, _, _, _, rfl⟩
  | wFms =>
    rw [Machine.opChan, Machine.opChan]
    split <;> exact ⟨_, _, _, _, _, _, _, rfl⟩
  | rPcrA | rPcrB | rMode | rFms | rSc | rMod | rCntin | rC0sc | rC0v | rC1sc | rC1v | rFilter | rQdctrl | rCnt =>
    exact hq.elim

/-- Acts whose operations on the channel are quiet writes leave it the registers that these writes alone give: ticks and
the other channel do not reach them. -/
theorem runActs_sameRegisters {ch : Ch} {acts : List Act} {c : Channel} {s : State}
    (h : SameRegisters c (s.chan ch)) (hq : QuietRun (opsOn ch acts) c) :
    SameRegisters (opsChan (opsOn ch acts) c) ((runActs acts s).chan ch) := by
  induction acts generalizing c s with
  | nil => exact h
  | cons x acts ih =>
    rw [runActs_cons]
    rcases opsOn_cons_cases ch x with ⟨i, rfl, hi⟩ | hx
    · rw [opsOn_cons_of_op hi] at hq ⊢
      refine ih ?_ hq.2
      rw [runAct_chan, actChan_op hi]
      exact h.opChan hq.1
    · rw [hx] at hq ⊢
      refine ih ?_ hq
      rw [runAct_chan]
      exact h.trans (sameRegisters_actChan hx _)

/-! ## What quiet writes leave in the run -/

/-- From `s` to `t` the host has done `n` operations, and of these the history has `n` events, no `LockedWrite` among
them, and nothing is refused. -/
def RunsQuietly (n : Nat) (s t : State) : Prop :=
  t.refusals = s.refusals ∧ t.pc = s.pc + n ∧
    ∃ es, t.hist = s.hist ++ es ∧ es.length = n ∧ ∀ e ∈ es, e.isLockedWrite = false

theorem runsQuietly_zero {s t : State} (hr : t.refusals = s.refusals) (hpc : t.pc = s.pc) (hh : t.hist = s.hist) :
    RunsQuietly 0 s t := ⟨hr, hpc, [], by simp [hh]⟩

theorem RunsQuietly.trans {n m : Nat} {s t u : State} (h : RunsQuietly n s t) (h' : RunsQuietly m t u) :
    RunsQuietly (n + m) s u := by
  obtain ⟨hr, hpc, es, hh, hlen, hes⟩ := h
  obtain ⟨hr', hpc', es', hh', hlen', hes'⟩ := h'
  refine ⟨hr'.trans hr, by omega, es ++ es', by rw [hh', hh, List.append_assoc], by simp [hlen, hlen'], ?_⟩
  exact List.forall_mem_append.2 ⟨hes, hes'⟩

/-- A write that is neither refused nor blocked leaves its bus operation in the history. -/
theorem runsQuietly_afterWrite (s : State) (ch : Ch) (reg : Reg) (d : Word) (c : Channel) :
    RunsQuietly 1 s (afterWrite s ch reg d c [] []) :=
  ⟨by simp, rfl, [.busOp ch .write reg d], by simp [Event.isLockedWrite]⟩

/-- A gated write of an Open channel that enables no interrupt runs quietly (R140). -/
theorem runsQuietly_gatedWrite {ch : Ch} {s : State} (ho : Opened (s.chan ch)) (reg : Reg) (d : Word) {e : Bool}
    (he : e = false) (store : Channel → Channel) : RunsQuietly 1 s (gatedWrite ch reg d e store s) := by
  rw [gatedWrite, gatedStore_open ch reg e store s ho.1 ho.2, finishWrite_eq_afterWrite, he]
  exact runsQuietly_afterWrite ..

/-- A pin-control write that enables no pin feature runs quietly (R102, R104). -/
theorem runsQuietly_pinWrite {d : Word} (hd : pinFeature d = false) (ch : Ch) (reg : Reg) (c : Channel) (s : State) :
    RunsQuietly 1 s (finishWrite ch reg d ((refuseIf (pinFeature d) .pinFeatureOutOfScope s).setChan ch c)) := by
  rw [finishWrite_eq_afterWrite, hd]
  exact runsQuietly_afterWrite ..

/-- A quiet write runs quietly. -/
theorem runsQuietly_execNext {i : Instr} {s : State} (hq : QuietWrite i (s.chan i.channel)) :
    RunsQuietly 1 s (execNext i s) := by
  rcases i.eq_readInstr_or_writeInstr with ⟨r, ch, rfl⟩ | ⟨r, ch, d, rfl⟩
  · cases r <;> exact hq.elim
  · rw [channel_writeInstr] at hq
    cases r with
    | pcrA | pcrB => exact runsQuietly_pinWrite hq ..
    | sc | c0sc | c1sc => exact runsQuietly_gatedWrite hq.1 _ d hq.2 _
    | mod | cntin | c0v | c1v | filter | qdctrl => exact runsQuietly_gatedWrite hq _ d rfl _
    | mode =>
      rw [writeInstr, execNext_wMode_unlock hq.1 hq.2]
      exact runsQuietly_afterWrite ..
    | fms =>
      rw [writeInstr, execNext, exec, execWFms, wpenStore_eq, finishWrite_setChan_eq_afterWrite]
      exact runsQuietly_afterWrite ..
    | cnt =>
      rw [writeInstr, execNext, exec, execWCnt, cntWrite_eq_afterWrite]
      exact runsQuietly_afterWrite ..

/-- Acts whose operations are quiet writes of one channel run quietly: a tick records nothing. -/
theorem runsQuietly_runActs {ch : Ch} {acts : List Act} {c : Channel} {s : State} (h : SameRegisters c (s.chan ch))
    (hq : QuietRun (opsOn ch acts) c) (hch : ∀ i, Act.op i ∈ acts → i.channel = ch) :
    RunsQuietly (opsOn ch acts).length s (runActs acts s) := by
  induction acts generalizing c s with
  | nil => exact runsQuietly_zero rfl rfl rfl
  | cons x acts ih =>
    have htail : ∀ i, Act.op i ∈ acts → i.channel = ch := fun i hi => hch i (List.mem_cons_of_mem _ hi)
    rw [runActs_cons]
    cases x with
    | op i =>
      have hi : i.channel = ch := hch i List.mem_cons_self
      rw [opsOn_cons_of_op hi] at hq ⊢
      have hs : SameRegisters (opChan i c) ((runAct s (.op i)).chan ch) := by
        rw [runAct_chan, actChan_op hi]
        exact h.opChan hq.1
      rw [List.length_cons, Nat.add_comm]
      refine (runsQuietly_execNext ?_).trans (ih hs hq.2 htail)
      rw [hi]
      exact h.quietWrite hq.1
    | tick y la lb =>
      rw [opsOn_cons_tick] at hq ⊢
      have hs : SameRegisters c ((runAct s (.tick y la lb)).chan ch) := by
        rw [runAct_chan]
        exact h.trans (sameRegisters_actChan (opsOn_cons_tick ch y la lb) _)
      have htick : RunsQuietly 0 s (runAct s (.tick y la lb)) :=
        runsQuietly_zero (tick_refusals ..) (tick_pc ..) (tick_hist ..)
      simpa using htick.trans (ih hs hq htail)

/-! ## INIT on a record -/

/-- `PCR_INIT` enables no pin feature (R102, R230). -/
theorem pinFeature_pcrInit (prm : Params) (ch : Ch) (p : Phase) : pinFeature (pcrInit prm ch p) = false := by
  unfold pcrInit
  generalize prm.altQd ch p = mux
  revert mux
  decide

/-- `FILTER_INIT` writes the filter register of a configured channel (R156, R230). -/
theorem ofWord_filterInit (prm : Params) : Filter.ofWord (filterInit prm) = ⟨prm.fvalInit, prm.fvalInit⟩ := by
  unfold filterInit
  generalize prm.fvalInit = f
  revert f
  decide

/-- `QD_INIT` writes the decode control register of a configured channel (R158, R230). -/
theorem ofWord_qdInit (prm : Params) : Qdctrl.ofWord (qdInit prm) = configuredQdctrl prm := by
  unfold qdInit configuredQdctrl
  generalize prm.polAInit = a
  generalize prm.polBInit = b
  revert a b
  decide

/-- The unlock write and a W.MODE after it store the fields of the second and clear the latch, and nothing else,
whatever the lock state was (R125). -/
theorem modeChan_modeChan_of_unlock {d : Word} (h : field d 2 1 = 1#1) (d' : Word) (c : Channel) :
    modeChan d' (modeChan d c) = { c with mode := Mode.ofWord d', wpen := 0#1 } := by
  have hw := modeChan_wpen h c
  rw [modeChan_unlocked d' hw, hw, ite_self]
  rcases bit_cases c.wpen with hc | hc
  · rw [modeChan_unlocked d hc]
  · rw [modeChan_locked d hc]

/-- The record after the first four writes of INIT: the pins are routed, and the channel is Open (R230). -/
def initOpened (prm : Params) (ch : Ch) (c : Channel) : Channel :=
  { c with pcrA := configuredPcr prm ch .a, pcrB := configuredPcr prm ch .b, mode := ⟨0#1, 0#2, 0#1, 0#1, 1#1⟩,
           wpen := 0#1 }

/-- The pins and the handshake: W.MODE with 4 and then 5 opens the gate from every lock state (R129, R230). -/
theorem opsChan_pins_handshake (prm : Params) (ch : Ch) (c : Channel) :
    opsChan [.wPcrA ch (pcrInit prm ch .a), .wPcrB ch (pcrInit prm ch .b), .wMode ch 0x4#32, .wMode ch 0x5#32] c =
      initOpened prm ch c := by
  simp only [opsChan_cons, opsChan_nil, opChan, ofWord_pcrInit]
  exact modeChan_modeChan_of_unlock (by decide) 0x5#32 _

/-- The Open gate by its two bits, for records written out field by field. -/
theorem gatedChan_of_bits (ch : Ch) (reg : Reg) (store : Channel → Channel) {c : Channel} (hw : c.wpen = 0#1)
    (hf : c.mode.ftmen = 1#1) : gatedChan ch reg store c = store c := gatedChan_opened ch reg store ⟨hw, hf⟩

/-- INIT on a record leaves every register at its configured value (R230, R233). -/
theorem configured_opsChan_initOps (prm : Params) (ch : Ch) (c : Channel) :
    Configured prm ch (opsChan (initOps prm ch) c) := by
  simp only [initOps, List.append_assoc]
  rw [opsChan_append, opsChan_pins_handshake]
  simp only [initOpened, List.cons_append, List.nil_append, opsChan_cons, opsChan_nil, opChan, gatedChan_of_bits,
    ofWord_filterInit, ofWord_qdInit]
  exact { pcrA := rfl, pcrB := rfl, wpen := rfl, mode := rfl, sc := rfl, c0sc := rfl, c1sc := rfl, c0v := rfl,
          c1v := rfl, filter := rfl, cntin := rfl, mod := rfl, qdctrl := rfl }

/-- INIT is a run of quiet writes on every record: its gated writes come after the handshake, and the lock comes
last. -/
theorem quietRun_initOps (prm : Params) (ch : Ch) (c : Channel) : QuietRun (initOps prm ch) c := by
  simp only [initOps, List.append_assoc]
  rw [quietRun_append, opsChan_pins_handshake]
  constructor
  · exact ⟨pinFeature_pcrInit prm ch .a, pinFeature_pcrInit prm ch .b, ⟨rfl, rfl⟩, ⟨rfl, rfl⟩, trivial⟩
  · simp [QuietRun, QuietWrite, opChan, Opened, initOpened, gatedChan_of_bits, enableBit6, field]

/-- Settles O43: ticks and the other channel do not reach the registers, and the sixteen writes, which are quiet from
every state, configure them. -/
theorem initReachesConfigured : Obligations.InitReachesConfigured := by
  intro ch acts s hops
  have hquiet : QuietRun (opsOn ch acts) (s.chan ch) := by rw [hops]; exact quietRun_initOps ..
  have hregs := runActs_sameRegisters (.refl _) hquiet
  have hlen : (opsOn ch acts).length = 16 := by rw [hops]; rfl
  refine ⟨hregs.configured ?_, fun hch => ?_⟩
  · rw [hops]
    exact configured_opsChan_initOps ..
  · rw [← hlen]
    exact runsQuietly_runActs (.refl _) hquiet hch

/-! ## The counter after INIT -/

@[simp] theorem afterOps_zero (ch : Ch) (acts : List Act) : afterOps ch 0 acts = acts := by rw [afterOps]

/-- The acts after an operation of the channel stand right behind it, and hold the operations that come after it. -/
theorem exists_eq_append_afterOps {ch : Ch} {as bs : List Instr} {i : Instr} {acts : List Act}
    (h : opsOn ch acts = as ++ i :: bs) :
    ∃ pre, acts = pre ++ .op i :: afterOps ch (as.length + 1) acts ∧ i.channel = ch ∧
      opsOn ch (afterOps ch (as.length + 1) acts) = bs := by
  induction acts generalizing as with
  | nil => simp [opsOn] at h
  | cons x acts ih =>
    rcases opsOn_cons_cases ch x with ⟨j, rfl, hj⟩ | hx
    · rw [opsOn_cons_of_op hj] at h
      have hcut (n : Nat) : afterOps ch (n + 1) (.op j :: acts) = afterOps ch n acts := by
        simp [afterOps, opsOn_cons_of_op hj]
      cases as with
      | nil =>
        obtain ⟨rfl, rfl⟩ := List.cons.inj h
        rw [List.length_nil, hcut, afterOps_zero]
        exact ⟨[], rfl, hj, rfl⟩
      | cons a as =>
        obtain ⟨pre, hacts, hi, hbs⟩ := ih (List.cons.inj h).2
        rw [List.length_cons, hcut]
        exact ⟨.op j :: pre, congrArg (Act.op j :: ·) hacts, hi, hbs⟩
    · have hcut : afterOps ch (as.length + 1) (x :: acts) = afterOps ch (as.length + 1) acts := by
        simp [afterOps, show opsOn ch [x] = [] from hx []]
      obtain ⟨pre, hacts, hi, hbs⟩ := ih ((hx acts).symm.trans h)
      rw [hcut]
      exact ⟨x :: pre, congrArg (x :: ·) hacts, hi, hbs⟩

/-- Acts without a tick of the channel leave its record as its operations alone do. -/
theorem runActs_chan_of_no_tick {ch : Ch} {acts : List Act} (h : actLevels ch acts = []) (s : State) :
    (runActs acts s).chan ch = opsChan (opsOn ch acts) (s.chan ch) := by
  induction acts generalizing s with
  | nil => rfl
  | cons x acts ih =>
    rw [runActs_cons]
    cases x with
    | op i =>
      rw [ih h, runAct_chan]
      by_cases hi : i.channel = ch
      · rw [opsOn_cons_of_op hi, opsChan_cons, actChan_op hi]
      · rw [opsOn_cons_of_otherOp hi, actChan, if_neg hi]
    | tick y la lb =>
      have hy : y ≠ ch := by rintro rfl; simp [actLevels] at h
      rw [ih (by simpa [actLevels, hy] using h), runAct_chan, actChan, if_neg hy, opsOn_cons_tick]

/-- Writes 14 to 16 of INIT leave the counter 0 in every lock state: the first stores it, the other two do not reach it
(R212). -/
theorem opsChan_lastWrites_cnt (ch : Ch) (q : Word) (c : Channel) :
    (opsChan [.wCnt ch 0#32, .wQdctrl ch q, .wFms ch 0x40#32] c).cnt = 0#16 := by
  obtain ⟨k, h | h⟩ := gatedChan_cases ch .qdctrl (fun c => { c with qdctrl := Qdctrl.ofWord q })
    { c with cnt := low16 0#32 }
  all_goals simp only [opsChan_cons, opsChan_nil, opChan, h]; rfl

/-- Settles O44: from write 14 on the channel has no tick, so that its record is that of the last three writes. -/
theorem initZeroesCounter : Obligations.InitZeroesCounter := by
  intro ch acts s hops hticks
  have hsplit : ∃ pre, acts = pre ++ .op (.wCnt ch 0#32) :: afterOps ch 14 acts ∧ (Instr.wCnt ch 0#32).channel = ch ∧
      opsOn ch (afterOps ch 14 acts) = [.wQdctrl ch (qdInit Config.params), .wFms ch 0x40#32] :=
    exists_eq_append_afterOps (as := (initOps Config.params ch).take 13) hops
  obtain ⟨pre, hacts, hch, hlast⟩ := hsplit
  calc ((runActs acts s).chan ch).cnt
    _ = ((runActs (afterOps ch 14 acts) (runAct (runActs pre s) (.op (.wCnt ch 0#32)))).chan ch).cnt := by
      conv_lhs => rw [hacts, runActs_append, runActs_cons]
    _ = (opsChan [.wCnt ch 0#32, .wQdctrl ch (qdInit Config.params), .wFms ch 0x40#32]
          ((runActs pre s).chan ch)).cnt := by
      rw [runActs_chan_of_no_tick hticks, hlast, runAct_chan, actChan_op hch, ← opsChan_cons]
    _ = 0#16 := opsChan_lastWrites_cnt ..

/-! ## The words of INIT -/

/-- Settles O47: the sixteen words are those of the reference parameters' closed operations. -/
theorem initWordsOfReference : Obligations.InitWordsOfReference := ⟨by decide, by decide⟩

end Sys2Proof.Machine

/-! PROOFS. The statements on the refusals and the completion of an operation. -/

namespace Sys2Proof.Machine

/-! ## Every operation completes -/

/-- No operation changes the run's script (log 1). -/
@[simp] theorem execNext_script (i : Instr) (s : State) : (execNext i s).script = s.script := by
  rcases execNext_cases i s with ⟨reg, r, k, h⟩ | ⟨reg, d, c, es, rs, h⟩ <;> rw [h] <;> rfl

/-- Settles O9: `exec` answers the state that `execNext` names. -/
theorem everyOperationCompletes : Obligations.EveryOperationCompletes := by
  intro i s
  obtain ⟨-, -, -, hprogram⟩ := extends_execNext i s
  exact ⟨execNext i s, exec_eq_next i s, execNext_pc i s, hprogram, execNext_script i s⟩

/-! ## The enables after one kind of operation -/

/-- A read of `r` returns a word, takes some free values, and changes nothing else of its channel (R101, R141). -/
theorem execNext_readInstr (r : Reg) (ch : Ch) (s : State) :
    ∃ w k, execNext (readInstr r ch) s = afterRead s ch r w k := by
  cases r with
  | mod | cntin | c0v | c1v | filter | cnt => exact ⟨_, 0, finishRead_eq_afterRead_zero ..⟩
  | pcrA | pcrB | mode | fms | sc | c0sc | c1sc | qdctrl => exact ⟨_, _, finishRead_eq_afterRead ..⟩

/-- A read leaves the enables and the refusals as they are. -/
theorem enablesOffUnlessRefused_afterRead {s : State} (hs : EnablesOffUnlessRefused s) {ch : Ch} {reg : Reg} {r : Word}
    {k : Nat} : EnablesOffUnlessRefused (afterRead s ch reg r k) := by
  intro hr
  obtain ⟨h0, h1⟩ := hs hr
  cases ch with
  | ch0 => exact ⟨h0, h1⟩
  | ch1 => exact ⟨h0, h1⟩

/-- A write keeps the enables off where, unless it refuses, the record it leaves has them off. -/
theorem enablesOffUnlessRefused_afterWrite {s : State} (hs : EnablesOffUnlessRefused s) {ch : Ch} {reg : Reg} {d : Word}
    {c : Channel} {es : List Event} {rs : List RefuseReason}
    (hc : (s.chan ch).enablesOff = true → rs = [] → c.enablesOff = true) :
    EnablesOffUnlessRefused (afterWrite s ch reg d c es rs) := by
  intro hr
  obtain ⟨hsr, hrs⟩ := List.append_eq_nil_iff.1 hr
  obtain ⟨h0, h1⟩ := hs hsr
  cases ch with
  | ch0 => exact ⟨hc h0 hrs, h1⟩
  | ch1 => exact ⟨h0, hc h1 hrs⟩

/-- A reason given under a condition is none only where the condition fails. -/
theorem not_of_reasons_eq_nil {p : Prop} [Decidable p] {r : RefuseReason} (h : (if p then [r] else []) = []) : ¬ p :=
  fun hp => List.cons_ne_nil r [] (ite_eq_right_iff.1 h hp)

/-- A gated write keeps the enables off where its store does without refusing (R140). -/
theorem enablesOffUnlessRefused_gatedWrite {s : State} (hs : EnablesOffUnlessRefused s) (ch : Ch) {reg : Reg}
    (hreg : reg ≠ .mode) (d : Word) {e : Bool} {store : Channel → Channel}
    (hstore : ∀ c, c.enablesOff = true → ¬ e = true → (store c).enablesOff = true) :
    EnablesOffUnlessRefused (gatedWrite ch reg d e store s) := by
  rw [gatedWrite]
  rcases gatedStore_cases ch e store s hreg with ⟨-, h⟩ | ⟨-, k, h⟩ | ⟨-, h⟩
  · rw [h, finishWrite_record_eq_afterWrite]
    exact enablesOffUnlessRefused_afterWrite hs (fun hc _ => hc)
  · rw [h, finishWrite_eq_afterWrite]
    exact enablesOffUnlessRefused_afterWrite hs (fun hc hrs => hstore _ hc (not_of_reasons_eq_nil hrs))
  · rw [h, finishWrite_setChan_eq_afterWrite]
    exact enablesOffUnlessRefused_afterWrite hs (fun hc _ => hc)

/-- A word that asks for no pin feature stores none (R102). -/
theorem ofWord_of_not_pinFeature {d : Word} (h : ¬ pinFeature d = true) :
    (Pcr.ofWord d).irqc = 0#4 ∧ (Pcr.ofWord d).lk = 0#1 := by
  rw [pinFeature_iff, not_or, not_not] at h
  exact ⟨h.1, (bit_cases _).resolve_right h.2⟩

/-- A pin-control write keeps the enables off where its register does without refusing (R102, R104). -/
theorem enablesOffUnlessRefused_pinWrite {s : State} (hs : EnablesOffUnlessRefused s) (ch : Ch) (reg : Reg) (d : Word)
    {c : Channel} (hc : (s.chan ch).enablesOff = true → ¬ pinFeature d = true → c.enablesOff = true) :
    EnablesOffUnlessRefused
      (finishWrite ch reg d ((refuseIf (pinFeature d) .pinFeatureOutOfScope s).setChan ch c)) := by
  rw [finishWrite_eq_afterWrite]
  exact enablesOffUnlessRefused_afterWrite hs (fun h hrs => hc h (not_of_reasons_eq_nil hrs))

/-- W.MODE refuses a fault interrupt that it stores, and stores nothing while its channel is Locked (R125). -/
theorem enablesOffUnlessRefused_wMode {s : State} (hs : EnablesOffUnlessRefused s) (ch : Ch) (d : Word) :
    EnablesOffUnlessRefused (execNext (.wMode ch d) s) := by
  rcases bit_cases (s.chan ch).wpen with h | h
  · rw [execNext_wMode_unlocked d h, modeChan_unlocked d h]
    refine enablesOffUnlessRefused_afterWrite hs (fun hc hrs => ?_)
    have hd : field d 7 1 = 0#1 := (bit_cases _).resolve_right (not_of_reasons_eq_nil hrs)
    simp_all [enablesOff_iff, Mode.ofWord]
  · rw [execNext_wMode_locked d h, modeChan_locked d h]
    exact enablesOffUnlessRefused_afterWrite hs (fun hc _ => hc)

/-! ## The enables after a step -/

/-- Every write refuses what it enables (R253, R254). -/
theorem enablesOffUnlessRefused_writeInstr {s : State} (hs : EnablesOffUnlessRefused s) (r : Reg) (ch : Ch) (d : Word) :
    EnablesOffUnlessRefused (execNext (writeInstr r ch d) s) := by
  cases r with
  | pcrA | pcrB =>
    refine enablesOffUnlessRefused_pinWrite hs ch _ d fun hc hd => ?_
    obtain ⟨hirqc, hlk⟩ := ofWord_of_not_pinFeature hd
    simp_all [enablesOff_iff]
  | sc | c0sc | c1sc =>
    refine enablesOffUnlessRefused_gatedWrite hs ch (by decide) d fun c hc hd => ?_
    simp_all [enablesOff_iff, enableBit6, Sc.ofWord, Cnsc.ofWord]
  | mod | cntin | c0v | c1v | filter | qdctrl =>
    exact enablesOffUnlessRefused_gatedWrite hs ch (by decide) d fun c hc _ => hc
  | mode => exact enablesOffUnlessRefused_wMode hs ch d
  | fms =>
    show EnablesOffUnlessRefused (finishWrite ch .fms d (wpenStore ch d s))
    rw [wpenStore_eq, finishWrite_setChan_eq_afterWrite]
    exact enablesOffUnlessRefused_afterWrite hs (fun hc _ => hc)
  | cnt =>
    show EnablesOffUnlessRefused (cntWrite Config.params.cntWriteMode ch d s)
    rw [cntWrite_eq_afterWrite]
    exact enablesOffUnlessRefused_afterWrite hs (fun hc _ => hc)

/-- No operation enables an interrupt, a pin interrupt or the pin lock without refusing (R254). -/
theorem enablesOffUnlessRefused_execNext {s : State} (hs : EnablesOffUnlessRefused s) (i : Instr) :
    EnablesOffUnlessRefused (execNext i s) := by
  rcases i.eq_readInstr_or_writeInstr with ⟨r, ch, rfl⟩ | ⟨r, ch, d, rfl⟩
  · obtain ⟨w, k, h⟩ := execNext_readInstr r ch s
    rw [h]
    exact enablesOffUnlessRefused_afterRead hs
  · exact enablesOffUnlessRefused_writeInstr hs r ch d

/-- A tick reaches no enable and refuses nothing (R187). -/
theorem enablesOffUnlessRefused_tick {s : State} (hs : EnablesOffUnlessRefused s) (ch : Ch) (la lb : Level) :
    EnablesOffUnlessRefused (tick ch la lb s) := by
  intro hr
  obtain ⟨h0, h1⟩ := hs ((tick_refusals ch la lb s).symm.trans hr)
  obtain ⟨v, fa, fb, na, nb, l, k, h⟩ := tickChannel_eq Config.params ch la lb (s.chan ch)
  rw [tick, h]
  cases ch with
  | ch0 => exact ⟨h0, h1⟩
  | ch1 => exact ⟨h0, h1⟩

/-- A reserved word is refused (R84). -/
theorem enablesOffUnlessRefused_reservedAccess (s : State) : EnablesOffUnlessRefused (reservedAccess s) :=
  fun hr => absurd hr (by simp [reservedAccess])

/-- Settles O51: an operation refuses the enables it sets, a tick reaches none, a reserved word is refused, and a turn
of a host that is done changes no record. -/
theorem stepKeepsEnablesOff : Obligations.StepKeepsEnablesOff := by
  intro s t hs h
  obtain ⟨u, ⟨sc, rfl⟩, hstep⟩ := step_cases h
  have hu : EnablesOffUnlessRefused { s with script := sc } := hs
  obtain ⟨ch, la, lb, rfl⟩ | ⟨w, i, -, -, rfl⟩ | ⟨w, e, -, -, rfl⟩ | ⟨-, rfl⟩ := hstep
  · exact enablesOffUnlessRefused_tick hu ch la lb
  · exact enablesOffUnlessRefused_execNext hu i
  · exact enablesOffUnlessRefused_reservedAccess _
  · exact hu

end Sys2Proof.Machine

/-! PROOFS. The statement on the end of a run. -/

namespace Sys2Proof.Machine

/-! ## The end of a run -/

/-- The end of a run: the host's program is done, and no tick is left in the script (R288). -/
def RunEnded (s : State) : Prop := s.program.length ≤ s.pc ∧ ∀ m ∈ s.script, m.isTick = false

/-- A turn of the host that the script names is no tick, so taking it off the script does not end a run (R288). -/
theorem runEnded_of_host {s : State} {rest : List Move} (h : s.script = .host :: rest) :
    RunEnded { s with script := rest } ↔ RunEnded s := by
  simp [RunEnded, h, Move.isTick]

/-- A run whose next move is a tick has not ended (R288). -/
theorem not_runEnded_of_tick {s : State} {ch : Ch} {la lb : Level} {rest : List Move}
    (h : s.script = .tick ch la lb :: rest) : ¬ RunEnded s := by
  simp [RunEnded, h, Move.isTick]

/-- Every word completes: it is an operation or a reserved word (R84, R250). -/
theorem runWord_completes (w : TWord) (s : State) : ∃ t, runWord w s = .next t := by
  cases h : decode w with
  | ok i => exact ⟨execNext i s, by simp only [runWord, h, exec_eq_next]⟩
  | error e => exact ⟨reservedAccess s, by simp only [runWord, h]⟩

/-- A turn of a host that is done passes while a tick is left, and stops where none is (R288). -/
theorem hostTurn_of_done {s : State} (h : s.program.length ≤ s.pc) :
    hostTurn s = if s.script.any Move.isTick then .next s else .fault .endOfRun := by
  rw [hostTurn, fetch, List.getElem?_eq_none h]

/-- `x` stops with the end of the run where `P` holds, and answers a next state where it fails. -/
def StopsExactlyWhere (P : Prop) (x : Host.Outcome State Fault Refusal) : Prop :=
  (P ∧ x = .fault .endOfRun) ∨ (¬ P ∧ ∃ t, x = .next t)

/-- A turn of the host stops exactly at the end of a run. -/
theorem hostTurn_stops (s : State) : StopsExactlyWhere (RunEnded s) (hostTurn s) := by
  rcases Nat.lt_or_ge s.pc s.program.length with hpc | hpc
  · have hword : hostTurn s = runWord s.program[s.pc] s := by
      rw [hostTurn, fetch, List.getElem?_eq_getElem hpc]
    exact .inr ⟨fun ⟨hdone, _⟩ => Nat.not_le.2 hpc hdone, hword ▸ runWord_completes _ s⟩
  · rw [hostTurn_of_done hpc]
    by_cases htick : s.script.any Move.isTick = true
    · obtain ⟨m, hm, hmtick⟩ := List.any_eq_true.1 htick
      exact .inr ⟨fun ⟨_, hnone⟩ => by simp [hnone m hm] at hmtick, s, if_pos htick⟩
    · exact .inl ⟨⟨hpc, by simpa using htick⟩, if_neg htick⟩

/-- A step stops exactly at the end of a run: a tick never stops, and a turn of the host stops only there. -/
theorem step_stops (s : State) : StopsExactlyWhere (RunEnded s) (step s) := by
  cases hs : s.script with
  | nil => rw [step, turn, hs]; exact hostTurn_stops s
  | cons m rest =>
    cases m with
    | host => rw [step, turn, hs, ← runEnded_of_host hs]; exact hostTurn_stops _
    | tick ch la lb => exact .inr ⟨not_runEnded_of_tick hs, _, step_of_tick hs⟩

/-- Settles O8: at the end of a run the step faults, everywhere else it answers, and no outcome is both. -/
theorem onlyTheEndOfARunStops : Obligations.OnlyTheEndOfARunStops := by
  intro s
  obtain ⟨hend, hfault⟩ | ⟨hgoing, t, hnext⟩ := step_stops s
  · exact ⟨iff_of_true hfault hend, fun hgoing => absurd hend hgoing⟩
  · exact ⟨iff_of_false (by simp [hnext]) hgoing, fun _ => ⟨t, hnext⟩⟩

end Sys2Proof.Machine
